-- ==== Sys2Proof/Word.lean ====
section
/-! DEFINITION. The two word types of the hardware (rule R9) and the names the instruction set gives its operands:
the seven single registers (R10), the two pair tables (R76) and the four conditions (R77). -/

namespace Sys2Proof

/-- An 8-bit value, `u8` (R9). -/
abbrev Byte := BitVec 8

/-- A 16-bit value, `u16`: an address, a register pair, SP or PC (R9). -/
abbrev Word := BitVec 16

/-- The seven 8-bit single registers (R10). F is not one of them, and operand index 6 is the memory byte at HL, not a
register (R75). -/
inductive Reg8 where
  | b | c | d | e | h | l | a
  deriving DecidableEq, Repr

/-- The pairs of table `rp` (R76): the operands of `LD rr,nn`, `INC rr`, `DEC rr` and `ADD HL,rr`. -/
inductive RegPair where
  | bc | de | hl | sp
  deriving DecidableEq, Repr

/-- The pairs of table `rp2` (R76): the operands of `PUSH` and `POP`, and the four pairs of the register file (R11). -/
inductive StackPair where
  | bc | de | hl | af
  deriving DecidableEq, Repr

/-- The conditions of the conditional jumps, calls and returns (R77). -/
inductive Cond where
  | nz | z | nc | c
  deriving DecidableEq, Repr

end Sys2Proof
end

