-- ==== Sys2Proof/Config.lean ====
section
/-! DEFINITION. What the spec leaves to an implementation as a parameter (R9): the register values at reset (`RESET_REGS`,
R30), the tick table (R337), the members of the illegal set (`ILLEGAL_SET`, R83), what memory that nothing has written reads
as, and what a device behind the bus does at an access (R41, R47).
The spec leaves no result and no flag undefined (R16; 93_implementation_defined.md A14); the devices' answers are the only free
values. -/

namespace Sys2Proof.Config

/-- The ten register fields a reset takes from the open parameter `RESET_REGS` (R30, decision D2). The spec asks that the
low four bits of `f` be zero. -/
structure ResetRegs where
  a : Byte
  f : Byte
  b : Byte
  c : Byte
  d : Byte
  e : Byte
  h : Byte
  l : Byte
  sp : Word
  pc : Word
  deriving DecidableEq, Repr

/-- The preset `POWER_ON` of R30: every register zero. -/
def powerOn : ResetRegs :=
  { a := 0, f := 0, b := 0, c := 0, d := 0, e := 0, h := 0, l := 0, sp := 0, pc := 0 }

/-- The preset `DMG_POST_BOOT` of R30: what the monochrome console's boot ROM leaves. -/
def dmgPostBoot : ResetRegs :=
  { a := 0x01, f := 0xB0, b := 0x00, c := 0x13, d := 0x00, e := 0xD8, h := 0x01, l := 0x4D, sp := 0xFFFE, pc := 0x0100 }

/-- DESIGN CHOICE (log entry 4, unsafe): the model's `RESET_REGS` is the preset `POWER_ON`. The spec leaves it open. -/
def resetRegs : ResetRegs := powerOn

/-- DESIGN CHOICE (log entry 3, unsafe): a byte of memory that nothing has written reads as zero, as in the test
vectors' conventions (95_test_vectors.md). -/
def unlistedByte : Byte := 0

/-- The tick constants of one opcode (R337): what `step` returns where its condition is taken, and where it is not. An opcode
with no condition has one constant, and it is `taken`. -/
structure Ticks where
  taken : Byte
  notTaken : Byte
  deriving DecidableEq, Repr

/-- The tick table `CYCLES`, a parameter with defaults (R337, decision D14; log entry 12): the opcodes of the two tables whose
constants are not the defaults of R336. Of two entries for an opcode the first counts. -/
structure TickTable where
  /-- Entries by the opcode byte. -/
  primary : List (Byte × Ticks)
  /-- Entries by the byte after `0xCB`. -/
  secondary : List (Byte × Ticks)
  deriving DecidableEq, Repr

/-- The table of R336 as it stands. -/
def defaultTable : TickTable := { primary := [], secondary := [] }

/-- `ILLEGAL_SET` (R83): the eleven first bytes with no instruction. -/
def illegalSet : List Byte := [0xD3, 0xDB, 0xDD, 0xE3, 0xE4, 0xEB, 0xEC, 0xED, 0xF4, 0xFC, 0xFD]

/-! ## Devices behind the bus -/

/-- What an access to a device does to the bus (R47, decision D18): the device's state after, and the bytes the bus holds that
it changes, in order. -/
structure Reaction where
  device : Nat
  stores : List (Word × Byte)
  deriving DecidableEq, Repr, Inhabited

/-- The byte a device answers to `read_byte(addr)` and what the read does, from the bytes the bus holds, the devices' state and
the address. A free value: the spec says that there is some answer and that any side effect on the bus is allowed (R41, R47,
decision D18; log entry 2). -/
opaque deviceRead : List Host.Cell → Nat → Word → Byte × Reaction

/-- What a device does at `write_byte(addr, value)`. A free value, as `deviceRead`. -/
opaque deviceWrite : List Host.Cell → Nat → Word → Byte → Reaction

end Sys2Proof.Config
end

