-- ==== Sys2Proof/Machine/State.lean ====
section
/-! DEFINITION. The whole state of the machine as plain data: the core's record (10_state.md), the bus's state (R5, R52), the
environment's pending actions (R7, R8), the tick table (R337), and the outputs of the two transitions (R6). -/

namespace Sys2Proof.Machine

/-- `run_state` (R22). -/
inductive RunState where
  | running | halted
  deriving DecidableEq, Repr

/-- The five interrupt sources, in priority order (R25, R281, R283). -/
inductive Source where
  | vblank | stat | timer | serial | joypad
  deriving DecidableEq, Repr

/-- What the core does to the outside, in the order it does it (R45, R47): its calls on the bus that read or write a byte
or acknowledge a request, and the illegal-opcode log (R272). The three pure readers of IE and IF are not listed
(log entry 7). -/
inductive Event where
  /-- `bus.read_byte(addr)` answered `value`. -/
  | read (addr : Word) (value : Byte)
  /-- `bus.write_byte(addr, value)`. -/
  | write (addr : Word) (value : Byte)
  /-- `bus.ack_interrupt(mask)`. -/
  | ack (mask : BitVec 5)
  /-- `log_illegal(op)`. -/
  | logIllegal (op : Byte)
  deriving DecidableEq, Repr

/-- What the environment may do between two calls on the core: change the bus's state, or the debug fields (R7, R36). -/
inductive EnvAction where
  /-- A byte that the bus holds changes. -/
  | busWrite (addr : Word) (value : Byte)
  /-- The devices' own state changes. -/
  | setDevice (device : Nat)
  /-- A peripheral requests an interrupt: it sets the source's bit of IF (R281). -/
  | request (src : Source)
  /-- `set_pause(b)` (R300). -/
  | setPause (b : Bool)
  /-- `set_breakpoint(addr)` (R300); `none` is the host clearing it, a direct field write (R36). -/
  | setBreakpoint (addr : Option Word)
  /-- The soft-break toggle, a direct field write (R36). -/
  | setSoftBreak (b : Bool)
  deriving DecidableEq, Repr

/-- A memory: (address, byte) cells in the canonical form of `Memory.wf`. -/
abbrev Memory := List Host.Cell

/-- A window of addresses, `first` to `last`, that a device answers. -/
structure Window where
  first : Word
  last : Word
  deriving DecidableEq, Repr

/-- `BusState` (R5): the bus is a parameter of the machine, an abstract machine with a state of its own. The reference bus
FlatBus (R52) is the one with no window. -/
structure BusState where
  /-- The bytes the bus holds, the whole space 0x0000 to 0xFFFF (R52); the bytes at 0xFFFF and 0xFF0F hold IE and IF. -/
  mem : Memory
  /-- The addresses whose accesses a device answers (R47), not the bytes held. No access changes the list. -/
  devices : List Window
  /-- The devices' state, coded as a number. -/
  device : Nat
  deriving DecidableEq, Repr

/-- The reference bus FlatBus (R52), nothing written. -/
def BusState.flat : BusState := { mem := [], devices := [], device := 0 }

/-- The state of the machine. -/
structure State where
  /-- Register A, the accumulator (R10). -/
  a : Byte
  /-- The flag byte F (R10, R14): Z, N, H, C are bits 7, 6, 5, 4, and the low four bits are zero (R13). -/
  f : Byte
  /-- Register B (R10). -/
  b : Byte
  /-- Register C (R10). -/
  c : Byte
  /-- Register D (R10). -/
  d : Byte
  /-- Register E (R10). -/
  e : Byte
  /-- Register H (R10). -/
  h : Byte
  /-- Register L (R10). -/
  l : Byte
  /-- The stack pointer (R21). -/
  sp : Word
  /-- The program counter (R18). -/
  pc : Word
  /-- The interrupt master enable IME (R24). -/
  ime : Bool
  /-- `run_state` (R22). -/
  runState : RunState
  /-- `halt_bug`, the one-shot suppression of the next PC increment (R23). -/
  haltBug : Bool
  /-- The debug breakpoint (R36). -/
  breakpoint : Option Word
  /-- The debug pause flag (R36). -/
  paused : Bool
  /-- The debug soft-break toggle (R36). -/
  softBreak : Bool
  /-- The bus and all behind it (R5, R27). -/
  bus : BusState
  /-- The environment's actions, one list for each gap between two calls on the core, the next gap's first (R7, R8; log
  entry 6). -/
  inputs : List (List EnvAction)
  /-- The tick table, a parameter of the machine (R337). No step changes it. -/
  ticks : Config.TickTable
  /-- The number the last `step` returned, in ticks (R6, R337). -/
  cycles : Byte
  /-- The host's clock, in ticks: the sum of what it was charged (R8, R335). -/
  clock : Nat
  /-- What the core has done to the outside since the present round began, oldest first. -/
  trace : List Event
  deriving DecidableEq, Repr

/-- There is no fault: `step` and `handle_interrupt` are total (R280), so the type has no constructor. -/
inductive Fault where
  deriving DecidableEq, Repr

/-- A refusal. Raised only by an arm of `exec` whose instruction has no meaning; safe. -/
inductive Refusal where
  | notModelled (mnemonic : String)
  deriving DecidableEq, Repr

/-- What an instruction's meaning answers. -/
abbrev Result := Host.Outcome State Fault Refusal

/-- The machine right after a reset with the given register values, bus and tick table (R30, R320, R337): the control state as
the spec says, no bus access made. The model's own fields start empty (log entry 5). -/
def State.resetWith (r : Config.ResetRegs) (bus : BusState) (ticks : Config.TickTable) : State :=
  { a := r.a, f := r.f, b := r.b, c := r.c, d := r.d, e := r.e, h := r.h, l := r.l, sp := r.sp, pc := r.pc
    ime := false, runState := .running, haltBug := false
    breakpoint := none, paused := false, softBreak := false
    bus := bus, inputs := [], ticks := ticks, cycles := 0, clock := 0, trace := [] }

/-- The machine right after reset, with the register values the configuration names (R30), on the reference bus (R52), with
the ticks of R336. -/
def State.reset : State := State.resetWith Config.resetRegs BusState.flat Config.defaultTable

end Sys2Proof.Machine
end

