-- ==== Sys2Proof/Machine/Flags.lean ====
section
/-! DEFINITION. The flag accessors (R14, R15) and every flag computation of the spec: the helpers of 40_alu8.md, 41_alu16.md,
42_rotate_a.md and 43_cb.md. Sums and differences are taken on integers and then narrowed, as the rules write them. -/

namespace Sys2Proof.Machine

/-! ## Accessors -/

/-- F.Z (R14). -/
def State.flagZ (s : State) : Bool := s.f.getLsbD 7

/-- F.N (R14). -/
def State.flagN (s : State) : Bool := s.f.getLsbD 6

/-- F.H (R14). -/
def State.flagH (s : State) : Bool := s.f.getLsbD 5

/-- F.C (R14). -/
def State.flagC (s : State) : Bool := s.f.getLsbD 4

/-- Write one bit of a byte, or leave it: the bit `i` becomes `v`, and no other bit changes (R15). -/
def putBit (i : Nat) (v : Option Bool) (w : Byte) : Byte :=
  match v with
  | none => w
  | some true => w ||| (1#8 <<< i)
  | some false => w &&& ~~~(1#8 <<< i)

/-- `flags <- (z, n, h, c)` (R15); `none` is the `-` of the rules: that flag is not written. -/
def State.setFlags (s : State) (z n h c : Option Bool) : State :=
  { s with f := putBit 7 z (putBit 6 n (putBit 5 h (putBit 4 c s.f))) }

/-! ## 8-bit arithmetic -/

/-- A result with the four flags a helper computes for it. -/
structure AluOut where
  res : Byte
  z : Bool
  n : Bool
  h : Bool
  c : Bool
  deriving DecidableEq, Repr

/-- `add8(a, b, cin)` (R101). -/
def add8 (a b : Byte) (cin : Bool) : AluOut :=
  let sum := a.toNat + b.toNat + cin.toNat
  let res := BitVec.ofNat 8 sum
  { res := res
    z := res == 0
    n := false
    h := decide ((a &&& 0x0F).toNat + (b &&& 0x0F).toNat + cin.toNat > 0x0F)
    c := decide (sum > 0xFF) }

/-- `sub8(a, b, cin)` (R102). -/
def sub8 (a b : Byte) (cin : Bool) : AluOut :=
  let res := BitVec.ofInt 8 ((a.toNat : Int) - b.toNat - cin.toNat)
  { res := res
    z := res == 0
    n := true
    h := decide ((a &&& 0x0F).toNat < (b &&& 0x0F).toNat + cin.toNat)
    c := decide (a.toNat < b.toNat + cin.toNat) }

/-- A bitwise result with `logic_flags(res, h)` (R103). -/
def logic8 (res : Byte) (h : Bool) : AluOut := { res := res, z := res == 0, n := false, h := h, c := false }

/-- `inc8(v)` (R104): the result, Z and H. -/
def inc8 (v : Byte) : Byte × Bool × Bool := (v + 1, v + 1 == 0, (v &&& 0x0F) == 0x0F)

/-- `dec8(v)` (R105): the result, Z and H. -/
def dec8 (v : Byte) : Byte × Bool × Bool := (v - 1, v - 1 == 0, (v &&& 0x0F) == 0x00)

/-- The correction of `DAA` (R135), from A before the correction and the flags N, H, C. -/
def daaCorrection (a : Byte) (n h c : Bool) : Byte :=
  let fromFlags := (if h then 0x06#8 else 0) ||| (if c then 0x60#8 else 0)
  if n then fromFlags
  else
    fromFlags ||| (if decide ((a &&& 0x0F).toNat > 0x09) then 0x06#8 else 0)
      ||| (if decide (a.toNat > 0x99) then 0x60#8 else 0)

/-- `DAA` (R135): the result, and C, which is set if the correction is 0x60 or more. -/
def daa8 (a : Byte) (n h c : Bool) : Byte × Bool :=
  let corr := daaCorrection a n h c
  (if n then a - corr else a + corr, decide (corr.toNat ≥ 0x60))

/-! ## 16-bit arithmetic -/

/-- `add16(a, b)` (R150): the result, H and C. -/
def add16 (a b : Word) : Word × Bool × Bool :=
  (BitVec.ofNat 16 (a.toNat + b.toNat),
   decide ((a &&& 0x0FFF).toNat + (b &&& 0x0FFF).toNat > 0x0FFF),
   decide (a.toNat + b.toNat > 0xFFFF))

/-- `sext_16(b)` (00_scope.md, notation). -/
def sext16 (b : Byte) : Word := b.signExtend 16

/-- `addsp(sp, u)` (R151): the result with the immediate sign-extended; H and C from the unsigned sum of the low bytes. -/
def addsp (sp : Word) (u : Byte) : Word × Bool × Bool :=
  (sp + sext16 u,
   decide ((sp &&& 0x000F).toNat + (u &&& 0x0F).toNat > 0x0F),
   decide ((sp &&& 0x00FF).toNat + u.toNat > 0xFF))

/-! ## Rotates and shifts: the result, and the bit moved out -/

/-- A flag as the byte 0 or 1. -/
def bitByte (c : Bool) : Byte := if c then 1 else 0

/-- `RLC` and `RLCA` (R172, R160). -/
def rlc8 (v : Byte) : Byte × Bool := ((v <<< 1) ||| bitByte (v.getLsbD 7), v.getLsbD 7)

/-- `RRC` and `RRCA` (R174, R161). -/
def rrc8 (v : Byte) : Byte × Bool := ((v >>> 1) ||| (bitByte (v.getLsbD 0) <<< 7), v.getLsbD 0)

/-- `RL` and `RLA` (R176, R162), with the carry before the instruction. -/
def rl8 (cin : Bool) (v : Byte) : Byte × Bool := ((v <<< 1) ||| bitByte cin, v.getLsbD 7)

/-- `RR` and `RRA` (R178, R163), with the carry before the instruction. -/
def rr8 (cin : Bool) (v : Byte) : Byte × Bool := ((v >>> 1) ||| (bitByte cin <<< 7), v.getLsbD 0)

/-- `SLA` (R180). -/
def sla8 (v : Byte) : Byte × Bool := (v <<< 1, v.getLsbD 7)

/-- `SRA` (R182): bit 7 keeps its value. -/
def sra8 (v : Byte) : Byte × Bool := ((v >>> 1) ||| (v &&& 0x80), v.getLsbD 0)

/-- `SWAP` (R184): the nibbles exchanged; the carry it leaves is 0. -/
def swap8 (v : Byte) : Byte × Bool := ((v <<< 4) ||| (v >>> 4), false)

/-- `SRL` (R186). -/
def srl8 (v : Byte) : Byte × Bool := (v >>> 1, v.getLsbD 0)

/-! ## Bits -/

/-- `v[b]` (R188). -/
def testBit8 (b : BitVec 3) (v : Byte) : Bool := v.getLsbD b.toNat

/-- `v & ~(1 << b)` (R190). -/
def resBit8 (b : BitVec 3) (v : Byte) : Byte := v &&& ~~~(1#8 <<< b.toNat)

/-- `v | (1 << b)` (R192). -/
def setBit8 (b : BitVec 3) (v : Byte) : Byte := v ||| (1#8 <<< b.toNat)

end Sys2Proof.Machine
end

