-- ==== Sys2Proof/Machine/Memory.lean ====
section
/-! DEFINITION. The bytes a bus holds (R52): 65536 of them, held as a sorted list of those that differ from what an
unlisted address reads as, with the read and the write of one byte. -/

namespace Sys2Proof.Machine

/-- The byte at address `k`. -/
def Memory.read : Memory → Nat → Byte
  | [], _ => Config.unlistedByte
  | (j, w) :: m, k => if k = j then w else Memory.read m k

/-- Put a cell in its place by address. -/
def Memory.insertCell : Memory → Nat → Byte → Memory
  | [], k, v => [(k, v)]
  | (j, w) :: m, k, v => if k < j then (k, v) :: (j, w) :: m else (j, w) :: Memory.insertCell m k v

/-- Take the cell of address `k` out. -/
def Memory.eraseCell (m : Memory) (k : Nat) : Memory := m.filter (fun c => c.1 != k)

/-- Put byte `v` at address `k`, keeping the canonical form: the byte an unlisted address reads as is not listed. -/
def Memory.write (m : Memory) (k : Nat) (v : Byte) : Memory :=
  if v = Config.unlistedByte then Memory.eraseCell m k else Memory.insertCell (Memory.eraseCell m k) k v

/-- The canonical form: addresses strictly rising, each inside the address space, and no byte equal to what an unlisted
address reads as. -/
abbrev Memory.wf (m : Memory) : Prop :=
  (m.map (fun c => c.1)).Pairwise (· < ·) ∧ ∀ c ∈ m, c.1 < 65536 ∧ c.2 ≠ Config.unlistedByte

end Sys2Proof.Machine
end

