-- ==== Sys2Proof/Machine/Bus.lean ====
section
/-! DEFINITION. The bus's side of its operations (R5). An address in no device window is memory: it reads as the byte held and
keeps what is stored. An address in a window is a device's: the access is answered, and may do anything to the bus, as the
configuration's free functions say (R41, R47, decision D18). With no window this is FlatBus (R52). -/

namespace Sys2Proof.Machine

/-- The address lies in the window. -/
def Window.contains (w : Window) (addr : Word) : Bool := decide (w.first ≤ addr) && decide (addr ≤ w.last)

/-- A device answers this address. -/
def BusState.isDevice (bus : BusState) (addr : Word) : Bool := bus.devices.any (fun w => w.contains addr)

/-- The byte held at `addr`. -/
def BusState.peek (bus : BusState) (addr : Word) : Byte := bus.mem.read addr.toNat

/-- The bus with `v` held at `addr`. -/
def BusState.poke (bus : BusState) (addr : Word) (v : Byte) : BusState := { bus with mem := bus.mem.write addr.toNat v }

/-- The bus after a device's reaction: the device's new state, and the bytes held that it changed. -/
def BusState.react (bus : BusState) (r : Config.Reaction) : BusState :=
  r.stores.foldl (fun b c => b.poke c.1 c.2) { bus with device := r.device }

/-- `read_byte(addr)` (R40, R47): the answer, and the bus after. -/
def BusState.read (bus : BusState) (addr : Word) : Byte × BusState :=
  if bus.isDevice addr then
    let r := Config.deviceRead bus.mem bus.device addr
    (r.1, bus.react r.2)
  else (bus.peek addr, bus)

/-- `write_byte(addr, v)` (R40, R47). -/
def BusState.write (bus : BusState) (addr : Word) (v : Byte) : BusState :=
  if bus.isDevice addr then bus.react (Config.deviceWrite bus.mem bus.device addr v) else bus.poke addr v

/-- Where the bus holds IE: FlatBus's address (R52). -/
def ieAddr : Word := 0xFFFF

/-- Where the bus holds IF: FlatBus's address (R52). -/
def ifAddr : Word := 0xFF0F

/-- `interrupt_enable()` (R5, R52): the five used bits of IE, a pure read whether or not a device answers that address. -/
def BusState.interruptEnable (bus : BusState) : BitVec 5 := (bus.peek ieAddr).extractLsb' 0 5

/-- `interrupt_flag()` (R5, R52): the five used bits of IF. -/
def BusState.interruptFlag (bus : BusState) : BitVec 5 := (bus.peek ifAddr).extractLsb' 0 5

/-- `ack_interrupt(mask)` (R5, R52): clears exactly the given bits of IF; the byte's upper bits stay. -/
def BusState.ack (bus : BusState) (mask : BitVec 5) : BusState :=
  bus.poke ifAddr (bus.peek ifAddr &&& ~~~(mask.setWidth 8))

end Sys2Proof.Machine
end

