-- ==== Sys2Proof/Syntax.lean ====
section
/-! DEFINITION. The instruction set as data: one constructor for each mnemonic of spec/opcode_table.json, in the table's
order (R81, R82). The eleven rows named ILLEGAL are one constructor with the byte as its operand. -/

namespace Sys2Proof

/-- An instruction with its operands. Registers, pairs and conditions are names, an immediate is its bytes' value (R80). -/
inductive Instr where
  /-- `NOP` (R265). -/
  | nop
  /-- `LD rr,nn` (R232). -/
  | ldPairNN (p : RegPair) (nn : Word)
  /-- `LD (BC),A` (R207). -/
  | ldAtBCA
  /-- `LD (DE),A` (R208). -/
  | ldAtDEA
  /-- `LD (HL+),A` (R217). -/
  | ldAtHLIncA
  /-- `LD (HL-),A` (R218). -/
  | ldAtHLDecA
  /-- `INC rr` (R154). -/
  | incPair (p : RegPair)
  /-- `INC r` (R131). -/
  | incR (r : Reg8)
  /-- `INC (HL)` (R132). -/
  | incAtHL
  /-- `DEC r` (R133). -/
  | decR (r : Reg8)
  /-- `DEC (HL)` (R134). -/
  | decAtHL
  /-- `LD r,n` (R201). -/
  | ldRN (r : Reg8) (n : Byte)
  /-- `LD (HL),n` (R204). -/
  | ldAtHLN (n : Byte)
  /-- `RLCA` (R160). -/
  | rlca
  /-- `LD (nn),SP` (R235). -/
  | ldAtNNSP (nn : Word)
  /-- `ADD HL,rr` (R152). -/
  | addHLPair (p : RegPair)
  /-- `LD A,(BC)` (R205). -/
  | ldAAtBC
  /-- `LD A,(DE)` (R206). -/
  | ldAAtDE
  /-- `LD A,(HL+)` (R215). -/
  | ldAAtHLInc
  /-- `LD A,(HL-)` (R216). -/
  | ldAAtHLDec
  /-- `DEC rr` (R155). -/
  | decPair (p : RegPair)
  /-- `RRCA` (R161). -/
  | rrca
  /-- `STOP` (R267). -/
  | stop
  /-- `RLA` (R162). -/
  | rla
  /-- `JR e` (R249); `e` is the raw byte, read as two's complement (R80). -/
  | jrE (e : Byte)
  /-- `RRA` (R163). -/
  | rra
  /-- `JR cc,e` (R250). -/
  | jrCond (cc : Cond) (e : Byte)
  /-- `DAA` (R135). -/
  | daa
  /-- `CPL` (R136). -/
  | cpl
  /-- `SCF` (R137). -/
  | scf
  /-- `CCF` (R138). -/
  | ccf
  /-- `LD r,r'` (R200). -/
  | ldRR (dst src : Reg8)
  /-- `LD r,(HL)` (R202). -/
  | ldRAtHL (r : Reg8)
  /-- `LD (HL),r` (R203). -/
  | ldAtHLR (r : Reg8)
  /-- `HALT` (R266). -/
  | halt
  /-- `ADD A,r` (R106). -/
  | addR (r : Reg8)
  /-- `ADD A,(HL)` (R107). -/
  | addAtHL
  /-- `ADD A,n` (R108). -/
  | addN (n : Byte)
  /-- `ADC A,r` (R110). -/
  | adcR (r : Reg8)
  /-- `ADC A,(HL)` (R111). -/
  | adcAtHL
  /-- `ADC A,n` (R112). -/
  | adcN (n : Byte)
  /-- `SUB r` (R113). -/
  | subR (r : Reg8)
  /-- `SUB (HL)` (R114). -/
  | subAtHL
  /-- `SUB n` (R115). -/
  | subN (n : Byte)
  /-- `SBC A,r` (R116). -/
  | sbcR (r : Reg8)
  /-- `SBC A,(HL)` (R117). -/
  | sbcAtHL
  /-- `SBC A,n` (R118). -/
  | sbcN (n : Byte)
  /-- `AND r` (R119). -/
  | andR (r : Reg8)
  /-- `AND (HL)` (R120). -/
  | andAtHL
  /-- `AND n` (R121). -/
  | andN (n : Byte)
  /-- `XOR r` (R122). -/
  | xorR (r : Reg8)
  /-- `XOR (HL)` (R123). -/
  | xorAtHL
  /-- `XOR n` (R124). -/
  | xorN (n : Byte)
  /-- `OR r` (R125). -/
  | orR (r : Reg8)
  /-- `OR (HL)` (R126). -/
  | orAtHL
  /-- `OR n` (R127). -/
  | orN (n : Byte)
  /-- `CP r` (R128). -/
  | cpR (r : Reg8)
  /-- `CP (HL)` (R129). -/
  | cpAtHL
  /-- `CP n` (R130). -/
  | cpN (n : Byte)
  /-- `RET cc` (R255). -/
  | retCond (cc : Cond)
  /-- `POP rr` for BC, DE, HL (R238); `POP AF` is a row of its own (WellFormed refuses AF here). -/
  | popPair (p : StackPair)
  /-- `POP AF` (R237). -/
  | popAF
  /-- `JP cc,nn` (R247). -/
  | jpCond (cc : Cond) (nn : Word)
  /-- `JP nn` (R246). -/
  | jpNN (nn : Word)
  /-- `CALL cc,nn` (R253). -/
  | callCond (cc : Cond) (nn : Word)
  /-- `PUSH qq` (R236). -/
  | pushPair (p : StackPair)
  /-- `RST t` (R257); the target address is `8 * t` (R80). -/
  | rst (t : BitVec 3)
  /-- `RET` (R254). -/
  | ret
  /-- `PREFIX CB` (R271): the first byte `0xCB` with the byte `cb` after it. The decoder gives the secondary entry itself,
so no byte sequence decodes to this constructor (log entry 9); its meaning is that of the entry `cb` (R82). -/
  | prefixCB (cb : Byte)
  /-- `CALL nn` (R252). -/
  | callNN (nn : Word)
  /-- `RETI` (R270). -/
  | reti
  /-- `LDH (n),A` (R214). -/
  | ldhAtNA (n : Byte)
  /-- `LDH (C),A` (R212). -/
  | ldhAtCA
  /-- `ADD SP,e` (R153). -/
  | addSPE (e : Byte)
  /-- `JP HL` (R248). -/
  | jpHL
  /-- `LD (nn),A` (R210). -/
  | ldAtNNA (nn : Word)
  /-- `LDH A,(n)` (R213). -/
  | ldhAAtN (n : Byte)
  /-- `LDH A,(C)` (R211). -/
  | ldhAAtC
  /-- `DI` (R268). -/
  | di
  /-- `LD HL,SP+e` (R233). -/
  | ldHLSPE (e : Byte)
  /-- `LD SP,HL` (R234). -/
  | ldSPHL
  /-- `LD A,(nn)` (R209). -/
  | ldAAtNN (nn : Word)
  /-- `EI` (R269). -/
  | ei
  /-- One of the eleven illegal first bytes (R83, R272); the table gives each its own row under this one mnemonic. -/
  | illegal (op : Byte)
  /-- `RLC r` (R172). -/
  | rlcR (r : Reg8)
  /-- `RLC (HL)` (R173). -/
  | rlcAtHL
  /-- `RRC r` (R174). -/
  | rrcR (r : Reg8)
  /-- `RRC (HL)` (R175). -/
  | rrcAtHL
  /-- `RL r` (R176). -/
  | rlR (r : Reg8)
  /-- `RL (HL)` (R177). -/
  | rlAtHL
  /-- `RR r` (R178). -/
  | rrR (r : Reg8)
  /-- `RR (HL)` (R179). -/
  | rrAtHL
  /-- `SLA r` (R180). -/
  | slaR (r : Reg8)
  /-- `SLA (HL)` (R181). -/
  | slaAtHL
  /-- `SRA r` (R182). -/
  | sraR (r : Reg8)
  /-- `SRA (HL)` (R183). -/
  | sraAtHL
  /-- `SWAP r` (R184). -/
  | swapR (r : Reg8)
  /-- `SWAP (HL)` (R185). -/
  | swapAtHL
  /-- `SRL r` (R186). -/
  | srlR (r : Reg8)
  /-- `SRL (HL)` (R187). -/
  | srlAtHL
  /-- `BIT b,r` (R188). -/
  | bitR (b : BitVec 3) (r : Reg8)
  /-- `BIT b,(HL)` (R189). -/
  | bitAtHL (b : BitVec 3)
  /-- `RES b,r` (R190). -/
  | resR (b : BitVec 3) (r : Reg8)
  /-- `RES b,(HL)` (R191). -/
  | resAtHL (b : BitVec 3)
  /-- `SET b,r` (R192). -/
  | setR (b : BitVec 3) (r : Reg8)
  /-- `SET b,(HL)` (R193). -/
  | setAtHL (b : BitVec 3)
  deriving DecidableEq, Repr

end Sys2Proof
end

