-- ==== Sys2Proof/Decode.lean ====
section
/-! DEFINITION. From bytes to instructions (R70 step 5, R73 to R84) and back. The decoder reads the field split of R74 and
the maps of R81 and R82; the encoder is written apart from it, from the "Encoding:" clause of each instruction's rule, so
that the two can be held against each other. -/

namespace Sys2Proof

/-! ## Byte order and bit fields -/

/-- The 16-bit value `hi ## lo` (00_scope.md, notation). -/
def joinBytes (hi lo : Byte) : Word := hi ++ lo

/-- `hi(v)`, bits 15 to 8. -/
def hi8 (v : Word) : Byte := v.extractLsb' 8 8

/-- `lo(v)`, bits 7 to 0. -/
def lo8 (v : Word) : Byte := v.extractLsb' 0 8

/-- Field `x` of an opcode byte, `op[7:6]` (R74). -/
def fieldX (op : Byte) : BitVec 2 := op.extractLsb' 6 2

/-- Field `y`, `op[5:3]` (R74). -/
def fieldY (op : Byte) : BitVec 3 := op.extractLsb' 3 3

/-- Field `z`, `op[2:0]` (R74). -/
def fieldZ (op : Byte) : BitVec 3 := op.extractLsb' 0 3

/-- Field `p`, `op[5:4]` (R74). -/
def fieldP (op : Byte) : BitVec 2 := op.extractLsb' 4 2

/-- Field `q`, `op[3]` (R74). -/
def fieldQ (op : Byte) : Bool := op.getLsbD 3

/-- The condition field, `op[4:3]`: `y` for `RET cc`, `JP cc,nn` and `CALL cc,nn`, and `y - 4` for `JR cc,e` (R77). -/
def fieldCC (op : Byte) : BitVec 2 := op.extractLsb' 3 2

/-! ## Operand tables -/

/-- The operand table `r[i]` (R75); `none` is index 6, the memory byte at HL. -/
def regOfIndex (i : BitVec 3) : Option Reg8 :=
  match i with
  | 0 => some .b
  | 1 => some .c
  | 2 => some .d
  | 3 => some .e
  | 4 => some .h
  | 5 => some .l
  | 6 => none
  | _ => some .a

/-- The index of a register in the table `r[i]` (R75), as a byte to build an opcode with. -/
def regIndex : Reg8 → Byte
  | .b => 0
  | .c => 1
  | .d => 2
  | .e => 3
  | .h => 4
  | .l => 5
  | .a => 7

/-- The table `rp[p]` (R76). -/
def pairOfIndex (p : BitVec 2) : RegPair :=
  match p with
  | 0 => .bc
  | 1 => .de
  | 2 => .hl
  | _ => .sp

/-- The index of a pair in `rp` (R76). -/
def pairIndex : RegPair → Byte
  | .bc => 0
  | .de => 1
  | .hl => 2
  | .sp => 3

/-- The table `rp2[p]` (R76). -/
def stackPairOfIndex (p : BitVec 2) : StackPair :=
  match p with
  | 0 => .bc
  | 1 => .de
  | 2 => .hl
  | _ => .af

/-- The index of a pair in `rp2` (R76). -/
def stackPairIndex : StackPair → Byte
  | .bc => 0
  | .de => 1
  | .hl => 2
  | .af => 3

/-- The condition table `cc[i]` (R77). -/
def condOfIndex (i : BitVec 2) : Cond :=
  match i with
  | 0 => .nz
  | 1 => .z
  | 2 => .nc
  | _ => .c

/-- The index of a condition in `cc` (R77). -/
def condIndex : Cond → Byte
  | .nz => 0
  | .z => 1
  | .nc => 2
  | .c => 3

/-! ## Length -/

/-- How many bytes the instruction with first byte `op` has (R73): a function of the first byte alone. -/
def opLength (op : Byte) : Nat :=
  match fieldX op with
  | 0 =>
    match fieldZ op with
    | 0 =>
      match fieldY op with
      | 0 => 1
      | 1 => 3
      | 2 => 1
      | _ => 2
    | 1 => if fieldQ op then 1 else 3
    | 6 => 2
    | _ => 1
  | 1 => 1
  | 2 => 1
  | _ =>
    match fieldZ op with
    | 0 => if (fieldY op).getLsbD 2 then 2 else 1
    | 2 =>
      match fieldY op with
      | 4 => 1
      | 6 => 1
      | _ => 3
    | 3 =>
      match fieldY op with
      | 0 => 3
      | 1 => 2
      | _ => 1
    | 4 => if (fieldY op).getLsbD 2 then 1 else 3
    | 5 => if fieldQ op && fieldP op == 0 then 3 else 1
    | 6 => 2
    | _ => 1

/-! ## The secondary table -/

/-- The x = 0 quadrant on a register: `rot[y] r` (R79, R82). -/
def decodeRotR (y : BitVec 3) (r : Reg8) : Instr :=
  match y with
  | 0 => .rlcR r
  | 1 => .rrcR r
  | 2 => .rlR r
  | 3 => .rrR r
  | 4 => .slaR r
  | 5 => .sraR r
  | 6 => .swapR r
  | _ => .srlR r

/-- The x = 0 quadrant on the memory byte at HL: `rot[y] (HL)` (R79, R82). -/
def decodeRotHL (y : BitVec 3) : Instr :=
  match y with
  | 0 => .rlcAtHL
  | 1 => .rrcAtHL
  | 2 => .rlAtHL
  | 3 => .rrAtHL
  | 4 => .slaAtHL
  | 5 => .sraAtHL
  | 6 => .swapAtHL
  | _ => .srlAtHL

/-- The secondary table (R82): the instruction of `0xCB cb`. Every byte is legal. -/
def decodeCB (cb : Byte) : Instr :=
  match fieldX cb, regOfIndex (fieldZ cb) with
  | 0, some r => decodeRotR (fieldY cb) r
  | 0, none => decodeRotHL (fieldY cb)
  | 1, some r => .bitR (fieldY cb) r
  | 1, none => .bitAtHL (fieldY cb)
  | 2, some r => .resR (fieldY cb) r
  | 2, none => .resAtHL (fieldY cb)
  | _, some r => .setR (fieldY cb) r
  | _, none => .setAtHL (fieldY cb)

/-! ## The primary table -/

/-- `alu[y] r` (R78). -/
def decodeAluR (y : BitVec 3) (r : Reg8) : Instr :=
  match y with
  | 0 => .addR r
  | 1 => .adcR r
  | 2 => .subR r
  | 3 => .sbcR r
  | 4 => .andR r
  | 5 => .xorR r
  | 6 => .orR r
  | _ => .cpR r

/-- `alu[y] (HL)` (R78). -/
def decodeAluHL (y : BitVec 3) : Instr :=
  match y with
  | 0 => .addAtHL
  | 1 => .adcAtHL
  | 2 => .subAtHL
  | 3 => .sbcAtHL
  | 4 => .andAtHL
  | 5 => .xorAtHL
  | 6 => .orAtHL
  | _ => .cpAtHL

/-- `alu[y] n` (R78). -/
def decodeAluN (y : BitVec 3) (n : Byte) : Instr :=
  match y with
  | 0 => .addN n
  | 1 => .adcN n
  | 2 => .subN n
  | 3 => .sbcN n
  | 4 => .andN n
  | 5 => .xorN n
  | 6 => .orN n
  | _ => .cpN n

/-- The x = 0 quadrant of the primary map (R81), with the two bytes after the opcode. -/
def decodeX0 (op n1 n2 : Byte) : Instr :=
  match fieldZ op with
  | 0 =>
    match fieldY op with
    | 0 => .nop
    | 1 => .ldAtNNSP (joinBytes n2 n1)
    | 2 => .stop
    | 3 => .jrE n1
    | _ => .jrCond (condOfIndex (fieldCC op)) n1
  | 1 =>
    if fieldQ op then .addHLPair (pairOfIndex (fieldP op)) else .ldPairNN (pairOfIndex (fieldP op)) (joinBytes n2 n1)
  | 2 =>
    match fieldY op with
    | 0 => .ldAtBCA
    | 1 => .ldAAtBC
    | 2 => .ldAtDEA
    | 3 => .ldAAtDE
    | 4 => .ldAtHLIncA
    | 5 => .ldAAtHLInc
    | 6 => .ldAtHLDecA
    | _ => .ldAAtHLDec
  | 3 => if fieldQ op then .decPair (pairOfIndex (fieldP op)) else .incPair (pairOfIndex (fieldP op))
  | 4 =>
    match regOfIndex (fieldY op) with
    | some r => .incR r
    | none => .incAtHL
  | 5 =>
    match regOfIndex (fieldY op) with
    | some r => .decR r
    | none => .decAtHL
  | 6 =>
    match regOfIndex (fieldY op) with
    | some r => .ldRN r n1
    | none => .ldAtHLN n1
  | _ =>
    match fieldY op with
    | 0 => .rlca
    | 1 => .rrca
    | 2 => .rla
    | 3 => .rra
    | 4 => .daa
    | 5 => .cpl
    | 6 => .scf
    | _ => .ccf

/-- The x = 1 quadrant of the primary map (R81): the loads, and `HALT` where both operands would be `(HL)`. -/
def decodeX1 (op : Byte) : Instr :=
  match regOfIndex (fieldY op), regOfIndex (fieldZ op) with
  | some dst, some src => .ldRR dst src
  | some dst, none => .ldRAtHL dst
  | none, some src => .ldAtHLR src
  | none, none => .halt

/-- The x = 2 quadrant of the primary map (R81): `alu[y] r[z]`. -/
def decodeX2 (op : Byte) : Instr :=
  match regOfIndex (fieldZ op) with
  | some r => decodeAluR (fieldY op) r
  | none => decodeAluHL (fieldY op)

/-- The x = 3 quadrant of the primary map (R81), with the two bytes after the opcode. The byte after `0xCB` selects an
entry of the secondary table (R271). -/
def decodeX3 (op n1 n2 : Byte) : Instr :=
  match fieldZ op with
  | 0 =>
    match fieldY op with
    | 4 => .ldhAtNA n1
    | 5 => .addSPE n1
    | 6 => .ldhAAtN n1
    | 7 => .ldHLSPE n1
    | _ => .retCond (condOfIndex (fieldCC op))
  | 1 =>
    match fieldY op with
    | 1 => .ret
    | 3 => .reti
    | 5 => .jpHL
    | 6 => .popAF
    | 7 => .ldSPHL
    | _ => .popPair (stackPairOfIndex (fieldP op))
  | 2 =>
    match fieldY op with
    | 4 => .ldhAtCA
    | 5 => .ldAtNNA (joinBytes n2 n1)
    | 6 => .ldhAAtC
    | 7 => .ldAAtNN (joinBytes n2 n1)
    | _ => .jpCond (condOfIndex (fieldCC op)) (joinBytes n2 n1)
  | 3 =>
    match fieldY op with
    | 0 => .jpNN (joinBytes n2 n1)
    | 1 => decodeCB n1
    | 6 => .di
    | 7 => .ei
    | _ => .illegal op
  | 4 =>
    if (fieldY op).getLsbD 2 then .illegal op
    else .callCond (condOfIndex (fieldCC op)) (joinBytes n2 n1)
  | 5 =>
    if fieldQ op then
      if fieldP op == 0 then .callNN (joinBytes n2 n1) else .illegal op
    else .pushPair (stackPairOfIndex (fieldP op))
  | 6 => decodeAluN (fieldY op) n1
  | _ => .rst (fieldY op)

/-- The instruction of the opcode byte `op` when the two bytes after it are `n1` and `n2`; bytes the instruction does not
have are not looked at. Total: every byte has an entry (R70). -/
def decodeOp (op n1 n2 : Byte) : Instr :=
  match fieldX op with
  | 0 => decodeX0 op n1 n2
  | 1 => decodeX1 op
  | 2 => decodeX2 op
  | _ => decodeX3 op n1 n2

/-- Why a byte sequence is no instruction. The machine itself never meets one of these: it reads every byte it needs. -/
inductive DecodeError where
  /-- There is no byte at all. -/
  | noBytes
  /-- The instruction that begins with `op` has more bytes than there are. -/
  | missingOperand (op : Byte)
  deriving DecidableEq, Repr

/-- Decode the instruction at the head of a byte sequence, and give the bytes after it. -/
def decode : List Byte → Except DecodeError (Instr × List Byte)
  | [] => .error .noBytes
  | op :: rest =>
    match opLength op, rest with
    | 1, rest => .ok (decodeOp op 0 0, rest)
    | 2, n1 :: rest => .ok (decodeOp op n1 0, rest)
    | _, n1 :: n2 :: rest => .ok (decodeOp op n1 n2, rest)
    | _, _ => .error (.missingOperand op)

/-! ## Encoding -/

/-- A three-byte instruction: the opcode, then the immediate's low byte and its high byte (R73, R80). -/
def withWord (op : Byte) (nn : Word) : List Byte := [op, lo8 nn, hi8 nn]

/-- The bit number of a secondary entry, as a byte to build an opcode with. -/
def bitIndex (b : BitVec 3) : Byte := b.setWidth 8

/-- The bytes of an instruction, from the "Encoding:" clause of its rule. -/
def encode : Instr → List Byte
  | .nop => [0x00]
  | .ldPairNN p nn => withWord (0x01 + 16 * pairIndex p) nn
  | .ldAtBCA => [0x02]
  | .ldAtDEA => [0x12]
  | .ldAtHLIncA => [0x22]
  | .ldAtHLDecA => [0x32]
  | .incPair p => [0x03 + 16 * pairIndex p]
  | .incR r => [0x04 + 8 * regIndex r]
  | .incAtHL => [0x34]
  | .decR r => [0x05 + 8 * regIndex r]
  | .decAtHL => [0x35]
  | .ldRN r n => [0x06 + 8 * regIndex r, n]
  | .ldAtHLN n => [0x36, n]
  | .rlca => [0x07]
  | .ldAtNNSP nn => withWord 0x08 nn
  | .addHLPair p => [0x09 + 16 * pairIndex p]
  | .ldAAtBC => [0x0A]
  | .ldAAtDE => [0x1A]
  | .ldAAtHLInc => [0x2A]
  | .ldAAtHLDec => [0x3A]
  | .decPair p => [0x0B + 16 * pairIndex p]
  | .rrca => [0x0F]
  | .stop => [0x10]
  | .rla => [0x17]
  | .jrE e => [0x18, e]
  | .rra => [0x1F]
  | .jrCond cc e => [0x20 + 8 * condIndex cc, e]
  | .daa => [0x27]
  | .cpl => [0x2F]
  | .scf => [0x37]
  | .ccf => [0x3F]
  | .ldRR dst src => [0x40 + 8 * regIndex dst + regIndex src]
  | .ldRAtHL r => [0x46 + 8 * regIndex r]
  | .ldAtHLR r => [0x70 + regIndex r]
  | .halt => [0x76]
  | .addR r => [0x80 + regIndex r]
  | .addAtHL => [0x86]
  | .addN n => [0xC6, n]
  | .adcR r => [0x88 + regIndex r]
  | .adcAtHL => [0x8E]
  | .adcN n => [0xCE, n]
  | .subR r => [0x90 + regIndex r]
  | .subAtHL => [0x96]
  | .subN n => [0xD6, n]
  | .sbcR r => [0x98 + regIndex r]
  | .sbcAtHL => [0x9E]
  | .sbcN n => [0xDE, n]
  | .andR r => [0xA0 + regIndex r]
  | .andAtHL => [0xA6]
  | .andN n => [0xE6, n]
  | .xorR r => [0xA8 + regIndex r]
  | .xorAtHL => [0xAE]
  | .xorN n => [0xEE, n]
  | .orR r => [0xB0 + regIndex r]
  | .orAtHL => [0xB6]
  | .orN n => [0xF6, n]
  | .cpR r => [0xB8 + regIndex r]
  | .cpAtHL => [0xBE]
  | .cpN n => [0xFE, n]
  | .retCond cc => [0xC0 + 8 * condIndex cc]
  | .popPair p => [0xC1 + 16 * stackPairIndex p]
  | .popAF => [0xF1]
  | .jpCond cc nn => withWord (0xC2 + 8 * condIndex cc) nn
  | .jpNN nn => withWord 0xC3 nn
  | .callCond cc nn => withWord (0xC4 + 8 * condIndex cc) nn
  | .pushPair p => [0xC5 + 16 * stackPairIndex p]
  | .rst t => [0xC7 + 8 * bitIndex t]
  | .ret => [0xC9]
  | .prefixCB cb => [0xCB, cb]
  | .callNN nn => withWord 0xCD nn
  | .reti => [0xD9]
  | .ldhAtNA n => [0xE0, n]
  | .ldhAtCA => [0xE2]
  | .addSPE e => [0xE8, e]
  | .jpHL => [0xE9]
  | .ldAtNNA nn => withWord 0xEA nn
  | .ldhAAtN n => [0xF0, n]
  | .ldhAAtC => [0xF2]
  | .di => [0xF3]
  | .ldHLSPE e => [0xF8, e]
  | .ldSPHL => [0xF9]
  | .ldAAtNN nn => withWord 0xFA nn
  | .ei => [0xFB]
  | .illegal op => [op]
  | .rlcR r => [0xCB, 0x00 + regIndex r]
  | .rlcAtHL => [0xCB, 0x06]
  | .rrcR r => [0xCB, 0x08 + regIndex r]
  | .rrcAtHL => [0xCB, 0x0E]
  | .rlR r => [0xCB, 0x10 + regIndex r]
  | .rlAtHL => [0xCB, 0x16]
  | .rrR r => [0xCB, 0x18 + regIndex r]
  | .rrAtHL => [0xCB, 0x1E]
  | .slaR r => [0xCB, 0x20 + regIndex r]
  | .slaAtHL => [0xCB, 0x26]
  | .sraR r => [0xCB, 0x28 + regIndex r]
  | .sraAtHL => [0xCB, 0x2E]
  | .swapR r => [0xCB, 0x30 + regIndex r]
  | .swapAtHL => [0xCB, 0x36]
  | .srlR r => [0xCB, 0x38 + regIndex r]
  | .srlAtHL => [0xCB, 0x3E]
  | .bitR b r => [0xCB, 0x40 + 8 * bitIndex b + regIndex r]
  | .bitAtHL b => [0xCB, 0x46 + 8 * bitIndex b]
  | .resR b r => [0xCB, 0x80 + 8 * bitIndex b + regIndex r]
  | .resAtHL b => [0xCB, 0x86 + 8 * bitIndex b]
  | .setR b r => [0xCB, 0xC0 + 8 * bitIndex b + regIndex r]
  | .setAtHL b => [0xCB, 0xC6 + 8 * bitIndex b]

/-! ## The opcode table's numbering -/

/-- The instruction's bytes as the table numbers its bits: bits 7 to 0 are the first byte, bits 15 to 8 the second, bits 23
to 16 the third, and every bit at or above `nbits` is zero. -/
def tableBytes (nbits w : Nat) : List Byte :=
  let v := w % 2 ^ nbits
  [BitVec.ofNat 8 v, BitVec.ofNat 8 (v / 256), BitVec.ofNat 8 (v / 65536)]

/-- What the decoder reads from an instruction whose bits are `w`. A row of the secondary table gives the bits of the byte
after `0xCB` only (R88), so its number alone reads as the primary instruction of that byte (log entry 10). -/
def decodeTableWord (nbits w : Nat) : Option Instr :=
  match decode (tableBytes nbits w) with
  | .ok (i, _) => some i
  | .error _ => none

end Sys2Proof
end

