-- ==== Sys2Proof/Machine/Ticks.lean ====
section
/-! DEFINITION. The ticks `step` returns (70_reset_and_hazards.md, section 4): the three constants the source gives, the defaults
of the tick table (R336), and the look-up in the table, which is a parameter of the machine (R337; log entry 12). -/

namespace Sys2Proof.Machine

/-! ## The source's constants -/

/-- `CYC_HALTED` (R335): a halted step. -/
def cycHalted : Byte := 4

/-- `CYC_ILLEGAL` (R335, R272): an illegal opcode. -/
def cycIllegal : Byte := 0

/-- `CYC_IRQ` (R335): what the host charges for a serviced interrupt. -/
def cycIrq : Nat := 20

/-! ## The table -/

/-- One constant: the opcode has no condition. -/
def always (n : Byte) : Config.Ticks := { taken := n, notTaken := n }

/-- Two constants: the opcode has a condition ("t/n" of R336). -/
def takenOrNot (t n : Byte) : Config.Ticks := { taken := t, notTaken := n }

/-- The defaults of the tick table, form by form (R336). -/
def defaultTicks : Instr → Config.Ticks
  | .nop => always 4
  | .ldRR _ _ => always 4
  | .ldRN _ _ | .ldRAtHL _ | .ldAtHLR _ => always 8
  | .ldAtHLN _ => always 12
  | .ldAAtBC | .ldAAtDE | .ldAtBCA | .ldAtDEA => always 8
  | .ldAAtHLInc | .ldAAtHLDec | .ldAtHLIncA | .ldAtHLDecA => always 8
  | .ldAAtNN _ | .ldAtNNA _ => always 16
  | .ldhAAtN _ | .ldhAtNA _ => always 12
  | .ldhAAtC | .ldhAtCA => always 8
  | .ldPairNN _ _ => always 12
  | .ldAtNNSP _ => always 20
  | .ldSPHL => always 8
  | .ldHLSPE _ => always 12
  | .pushPair _ => always 16
  | .popPair _ | .popAF => always 12
  | .addR _ | .adcR _ | .subR _ | .sbcR _ | .andR _ | .xorR _ | .orR _ | .cpR _ => always 4
  | .addAtHL | .adcAtHL | .subAtHL | .sbcAtHL | .andAtHL | .xorAtHL | .orAtHL | .cpAtHL => always 8
  | .addN _ | .adcN _ | .subN _ | .sbcN _ | .andN _ | .xorN _ | .orN _ | .cpN _ => always 8
  | .incR _ | .decR _ => always 4
  | .incAtHL | .decAtHL => always 12
  | .daa | .cpl | .scf | .ccf => always 4
  | .addHLPair _ => always 8
  | .addSPE _ => always 16
  | .incPair _ | .decPair _ => always 8
  | .rlca | .rrca | .rla | .rra => always 4
  | .jpNN _ => always 16
  | .jpCond _ _ => takenOrNot 16 12
  | .jpHL => always 4
  | .jrE _ => always 12
  | .jrCond _ _ => takenOrNot 12 8
  | .callNN _ => always 24
  | .callCond _ _ => takenOrNot 24 12
  | .ret => always 16
  | .retCond _ => takenOrNot 20 8
  | .reti => always 16
  | .rst _ => always 16
  | .halt | .stop | .di | .ei => always 4
  | .rlcR _ | .rrcR _ | .rlR _ | .rrR _ | .slaR _ | .sraR _ | .swapR _ | .srlR _ => always 8
  | .rlcAtHL | .rrcAtHL | .rlAtHL | .rrAtHL | .slaAtHL | .sraAtHL | .swapAtHL | .srlAtHL => always 16
  | .bitR _ _ => always 8
  | .bitAtHL _ => always 12
  | .resR _ _ | .setR _ _ => always 8
  | .resAtHL _ | .setAtHL _ => always 16
  | .prefixCB cb =>
    -- The entry's: the prefix has no ticks of its own (R271).
    if fieldZ cb != 6 then always 8 else if fieldX cb == 1 then always 12 else always 16
  | .illegal _ => always cycIllegal

/-- The entry a table lists for the instruction of these bytes: by the byte after `0xCB` for an opcode of the secondary table,
by the first byte for any other. -/
def tickEntry (table : Config.TickTable) : List Byte → Option Config.Ticks
  | [] => none
  | op :: rest => if op = 0xCB then table.secondary.lookup (rest.headD 0) else table.primary.lookup op

/-- The ticks of the instruction of these bytes (R337): those of the table's entry, where it lists one, and `dflt` otherwise. -/
def State.ticksAt (s : State) (bytes : List Byte) (taken : Bool) (dflt : Byte) : Byte :=
  match tickEntry s.ticks bytes with
  | some e => if taken then e.taken else e.notTaken
  | none => dflt

end Sys2Proof.Machine
end

