-- ==== Sys2Proof/Machine/Ops.lean ====
section
/-! DEFINITION. The named operations over the bus, the stack, the interrupt sets and the host's interface: the bus operations
as the core calls them (R5, R47), push and pop (R230, R231), taking an interrupt and returning from one (R285, R270), and the
dispatcher (R285). Every access of the core to the bus goes through them, and each is recorded. -/

namespace Sys2Proof.Machine

/-! ## The bus -/

/-- The byte the bus holds at `addr`, with no access made. -/
def State.peek (s : State) (addr : Word) : Byte := s.bus.peek addr

/-- The state with the bus holding `v` at `addr`, with no access of the core made. -/
def State.poke (s : State) (addr : Word) (v : Byte) : State := { s with bus := s.bus.poke addr v }

/-- Record one event. -/
def State.note (s : State) (ev : Event) : State := { s with trace := s.trace ++ [ev] }

/-- `bus.read_byte(addr)` (R40). -/
def State.readByte (s : State) (addr : Word) : Byte × State :=
  let r := s.bus.read addr
  (r.1, { s with bus := r.2 }.note (.read addr r.1))

/-- `bus.write_byte(addr, v)` (R40). -/
def State.writeByte (s : State) (addr : Word) (v : Byte) : State :=
  { s with bus := s.bus.write addr v }.note (.write addr v)

/-- `read_word(addr)` (R42): two byte reads, low byte at `addr` first, the second address taken modulo 65536 (R48). -/
def State.readWord (s : State) (addr : Word) : Word × State :=
  let lo := s.readByte addr
  let hi := lo.2.readByte (addr + 1)
  (joinBytes hi.1 lo.1, hi.2)

/-- `write_word(addr, v)` (R43): two byte writes, low byte first. -/
def State.writeWord (s : State) (addr : Word) (v : Word) : State :=
  (s.writeByte addr (lo8 v)).writeByte (addr + 1) (hi8 v)

/-- `bus.interrupt_enable()` (R5). -/
def State.interruptEnable (s : State) : BitVec 5 := s.bus.interruptEnable

/-- `bus.interrupt_flag()` (R5). -/
def State.interruptFlag (s : State) : BitVec 5 := s.bus.interruptFlag

/-- `bus.interrupt_pending()` (R5, R282): some source is both enabled and requested, whatever IME is. -/
def State.interruptPending (s : State) : Bool := (s.interruptEnable &&& s.interruptFlag) != 0

/-- `bus.ack_interrupt(mask)` (R5). -/
def State.ackInterrupt (s : State) (mask : BitVec 5) : State := { s with bus := s.bus.ack mask }.note (.ack mask)

/-! ## The stack -/

/-- `push_word(v)` (R230): SP down by 2, then the word at the new SP. -/
def State.pushWord (s : State) (v : Word) : State := { s with sp := s.sp - 2 }.writeWord (s.sp - 2) v

/-- `pop_word()` (R231): the word at SP, then SP up by 2. -/
def State.popWord (s : State) : Word × State :=
  let r := s.readWord s.sp
  (r.1, { r.2 with sp := s.sp + 2 })

/-! ## Interrupts -/

/-- The bit of a source in IE and IF (R25). -/
def Source.bit : Source → Nat
  | .vblank => 0
  | .stat => 1
  | .timer => 2
  | .serial => 3
  | .joypad => 4

/-- The mask `1 << i` of a source (R285). -/
def Source.mask (src : Source) : BitVec 5 := 1 <<< src.bit

/-- The vector table (R26): a fixed constant. -/
def Source.vector : Source → Word
  | .vblank => 0x0040
  | .stat => 0x0048
  | .timer => 0x0050
  | .serial => 0x0058
  | .joypad => 0x0060

/-- The source of highest priority in a set (R283): the lowest set bit. -/
def highestSource (m : BitVec 5) : Option Source :=
  if m.getLsbD 0 then some .vblank
  else if m.getLsbD 1 then some .stat
  else if m.getLsbD 2 then some .timer
  else if m.getLsbD 3 then some .serial
  else if m.getLsbD 4 then some .joypad
  else none

/-- Taking an interrupt (R285 step 3, R286), the hardware's one exception entry: IME off, the request acknowledged, the PC
pushed, and control at the source's vector, in that order. -/
def State.enterInterrupt (s : State) (src : Source) : State :=
  { (({ s with ime := false }.ackInterrupt src.mask).pushWord s.pc) with pc := src.vector }

/-- The return to a pushed address (R254): `PC <- pop_word()`. -/
def State.popPC (s : State) : State :=
  let r := s.popWord
  { r.2 with pc := r.1 }

/-- The return from an interrupt (R270, R288): the pushed PC is popped and IME is on at once. Nothing else is restored. -/
def State.returnFromInterrupt (s : State) : State := { s.popPC with ime := true }

/-- Step 1 of the dispatcher (R285, R290): a pending source wakes a halted core, whatever IME is. -/
def State.wake (s : State) : State :=
  if s.interruptPending && s.runState == .halted then { s with runState := .running } else s

/-- `handle_interrupt(bus)` (R285): wake, then the IME gate, then at most one source serviced. The answer is `serviced`. -/
def State.handleInterrupt (s : State) : Bool × State :=
  if s.wake.ime then
    match highestSource (s.wake.interruptEnable &&& s.wake.interruptFlag) with
    | some src => (true, s.wake.enterInterrupt src)
    | none => (false, s.wake)
  else (false, s.wake)

/-! ## The end of an instruction, and the host's interface -/

/-- Record that `step` returns `n` ticks. -/
def State.setCycles (s : State) (n : Byte) : State := { s with cycles := n }

/-- The instruction `i` is done, and `step` returns its ticks (R6, R336); of a conditional one, those of a condition taken. -/
def State.finish (s : State) (i : Instr) : Result :=
  .next (s.setCycles (s.ticksAt (encode i) true (defaultTicks i).taken))

/-- The conditional instruction `i` is done, its condition not taken (R337). -/
def State.finishNotTaken (s : State) (i : Instr) : Result :=
  .next (s.setCycles (s.ticksAt (encode i) false (defaultTicks i).notTaken))

/-- `halted()` (R6, R22). -/
def State.halted (s : State) : Bool := s.runState == .halted

/-- `is_paused()` (R6, R300). -/
def State.isPaused (s : State) : Bool := s.paused

/-- `set_pause(b)` (R6, R300). -/
def State.setPause (s : State) (b : Bool) : State := { s with paused := b }

/-- `set_breakpoint(addr)` (R6, R300). -/
def State.setBreakpoint (s : State) (addr : Word) : State := { s with breakpoint := some addr }

/-- What `dump_cpu()` shows (R6, R300): PC, SP, the registers A, F, B, C, D, E, H, L, and IME. It changes nothing. -/
def State.dumpCpu (s : State) : Word × Word × List Byte × Bool :=
  (s.pc, s.sp, [s.a, s.f, s.b, s.c, s.d, s.e, s.h, s.l], s.ime)

end Sys2Proof.Machine
end

