-- ==== Sys2Proof/Machine/Operands.lean ====
section
/-! DEFINITION. The operand forms: the register file's single registers and pairs (R10 to R13), the pair tables (R76), the
conditions (R245), the high-page addresses (R51), and the read-compute-write shapes that instruction families share. -/

namespace Sys2Proof.Machine

/-! ## Registers and pairs -/

/-- `get(reg)` (R12). -/
def State.getReg (s : State) : Reg8 → Byte
  | .b => s.b
  | .c => s.c
  | .d => s.d
  | .e => s.e
  | .h => s.h
  | .l => s.l
  | .a => s.a

/-- `set(reg, v)` (R12): all 8 bits are stored. -/
def State.setReg (s : State) (r : Reg8) (v : Byte) : State :=
  match r with
  | .b => { s with b := v }
  | .c => { s with c := v }
  | .d => { s with d := v }
  | .e => { s with e := v }
  | .h => { s with h := v }
  | .l => { s with l := v }
  | .a => { s with a := v }

/-- BC = B ## C (R11). -/
def State.bc (s : State) : Word := joinBytes s.b s.c

/-- DE = D ## E (R11). -/
def State.de (s : State) : Word := joinBytes s.d s.e

/-- HL = H ## L (R11). -/
def State.hl (s : State) : Word := joinBytes s.h s.l

/-- AF = A ## F (R11). -/
def State.af (s : State) : Word := joinBytes s.a s.f

/-- `HL <- v` (R12). -/
def State.setHL (s : State) (v : Word) : State := { s with h := hi8 v, l := lo8 v }

/-- `get_pair(pair)` (R12). -/
def State.getPair (s : State) : StackPair → Word
  | .bc => s.bc
  | .de => s.de
  | .hl => s.hl
  | .af => s.af

/-- `set_pair(pair, v)` (R12); a write of AF clears the low four bits of the flag byte (R13). -/
def State.setPair (s : State) (p : StackPair) (v : Word) : State :=
  match p with
  | .bc => { s with b := hi8 v, c := lo8 v }
  | .de => { s with d := hi8 v, e := lo8 v }
  | .hl => s.setHL v
  | .af => { s with a := hi8 v, f := lo8 v &&& 0xF0 }

/-- `rp[p]` (R76). -/
def State.getRP (s : State) : RegPair → Word
  | .bc => s.bc
  | .de => s.de
  | .hl => s.hl
  | .sp => s.sp

/-- `rp[p] <- v` (R76). -/
def State.setRP (s : State) (p : RegPair) (v : Word) : State :=
  match p with
  | .bc => s.setPair .bc v
  | .de => s.setPair .de v
  | .hl => s.setHL v
  | .sp => { s with sp := v }

/-! ## Conditions and addresses -/

/-- `cond(i)` (R245). -/
def State.cond (s : State) : Cond → Bool
  | .nz => !s.flagZ
  | .z => s.flagZ
  | .nc => !s.flagC
  | .c => s.flagC

/-- The high-page address `0xFF00 + n` (R51). -/
def hiPage (n : Byte) : Word := 0xFF00 + n.setWidth 16

/-! ## Shapes shared by families -/

/-- A result in A with all four flags (R106 and its like). -/
def State.setAlu (s : State) (o : AluOut) : State :=
  { s with a := o.res }.setFlags (some o.z) (some o.n) (some o.h) (some o.c)

/-- The four flags of a result that is thrown away (R128). -/
def State.setAluFlags (s : State) (o : AluOut) : State := s.setFlags (some o.z) (some o.n) (some o.h) (some o.c)

/-- `shift_flags(res, c)` (R171). -/
def State.shiftFlags (s : State) (res : Byte) (c : Bool) : State :=
  s.setFlags (some (res == 0)) (some false) (some false) (some c)

/-- The register form of a rotate or shift (R170). -/
def State.shiftReg (s : State) (op : Byte → Byte × Bool) (r : Reg8) : State :=
  (s.setReg r (op (s.getReg r)).1).shiftFlags (op (s.getReg r)).1 (op (s.getReg r)).2

/-- The memory form of a rotate or shift (R170): one read and one write at HL. -/
def State.shiftHL (s : State) (op : Byte → Byte × Bool) : State :=
  let r := s.readByte s.hl
  (r.2.writeByte s.hl (op r.1).1).shiftFlags (op r.1).1 (op r.1).2

/-- An accumulator rotate (42_rotate_a.md): Z is 0 always. -/
def State.rotateA (s : State) (op : Byte → Byte × Bool) : State :=
  { s with a := (op s.a).1 }.setFlags (some false) (some false) (some false) (some (op s.a).2)

/-- A register replaced by a function of itself, no flag changed (R190, R192). -/
def State.modifyReg (s : State) (op : Byte → Byte) (r : Reg8) : State := s.setReg r (op (s.getReg r))

/-- The byte at HL replaced by a function of itself: one read, then one write (R191, R193). -/
def State.modifyHL (s : State) (op : Byte → Byte) : State :=
  let r := s.readByte s.hl
  r.2.writeByte s.hl (op r.1)

/-- A load of A from memory. -/
def State.loadA (s : State) (addr : Word) : State :=
  let r := s.readByte addr
  { r.2 with a := r.1 }

end Sys2Proof.Machine
end

