-- ==== Sys2Proof/Machine/Alu16.lean ====
section
/-! DEFINITION. The meanings of 41_alu16.md: `ADD HL,rr`, `ADD SP,e`, `INC rr`, `DEC rr`. -/

namespace Sys2Proof.Machine

/-- `ADD HL,rr` (R152): Z is unchanged. -/
def execAddHLPair (p : RegPair) (s : State) : Result :=
  let o := add16 s.hl (s.getRP p)
  ((s.setHL o.1).setFlags none (some false) (some o.2.1) (some o.2.2)).finish (.addHLPair p)

/-- `ADD SP,e` (R153): Z is 0. -/
def execAddSPE (e : Byte) (s : State) : Result :=
  let o := addsp s.sp e
  ({ s with sp := o.1 }.setFlags (some false) (some false) (some o.2.1) (some o.2.2)).finish (.addSPE e)

/-- `INC rr` (R154): no flag is changed. -/
def execIncPair (p : RegPair) (s : State) : Result := (s.setRP p (s.getRP p + 1)).finish (.incPair p)

/-- `DEC rr` (R155): no flag is changed. -/
def execDecPair (p : RegPair) (s : State) : Result := (s.setRP p (s.getRP p - 1)).finish (.decPair p)

end Sys2Proof.Machine
end

