-- ==== Sys2Proof/Machine/Alu8.lean ====
section
/-! DEFINITION. The meanings of 40_alu8.md: `ADD`, `ADC`, `SUB`, `SBC`, `AND`, `XOR`, `OR`, `CP` in their three operand forms
(R100), 8-bit `INC` and `DEC`, `DAA`, `CPL`, `SCF`, `CCF`. PC is already past the instruction (R19). -/

namespace Sys2Proof.Machine

/-- `ADD A,r` (R106). -/
def execAddR (r : Reg8) (s : State) : Result := (s.setAlu (add8 s.a (s.getReg r) false)).finish (.addR r)

/-- `ADD A,(HL)` (R107). -/
def execAddAtHL (s : State) : Result :=
  let m := s.readByte s.hl
  (m.2.setAlu (add8 s.a m.1 false)).finish .addAtHL

/-- `ADD A,n` (R108). -/
def execAddN (n : Byte) (s : State) : Result := (s.setAlu (add8 s.a n false)).finish (.addN n)

/-- `ADC A,r` (R110). -/
def execAdcR (r : Reg8) (s : State) : Result := (s.setAlu (add8 s.a (s.getReg r) s.flagC)).finish (.adcR r)

/-- `ADC A,(HL)` (R111). -/
def execAdcAtHL (s : State) : Result :=
  let m := s.readByte s.hl
  (m.2.setAlu (add8 s.a m.1 s.flagC)).finish .adcAtHL

/-- `ADC A,n` (R112). -/
def execAdcN (n : Byte) (s : State) : Result := (s.setAlu (add8 s.a n s.flagC)).finish (.adcN n)

/-- `SUB r` (R113). -/
def execSubR (r : Reg8) (s : State) : Result := (s.setAlu (sub8 s.a (s.getReg r) false)).finish (.subR r)

/-- `SUB (HL)` (R114). -/
def execSubAtHL (s : State) : Result :=
  let m := s.readByte s.hl
  (m.2.setAlu (sub8 s.a m.1 false)).finish .subAtHL

/-- `SUB n` (R115). -/
def execSubN (n : Byte) (s : State) : Result := (s.setAlu (sub8 s.a n false)).finish (.subN n)

/-- `SBC A,r` (R116). -/
def execSbcR (r : Reg8) (s : State) : Result := (s.setAlu (sub8 s.a (s.getReg r) s.flagC)).finish (.sbcR r)

/-- `SBC A,(HL)` (R117). -/
def execSbcAtHL (s : State) : Result :=
  let m := s.readByte s.hl
  (m.2.setAlu (sub8 s.a m.1 s.flagC)).finish .sbcAtHL

/-- `SBC A,n` (R118). -/
def execSbcN (n : Byte) (s : State) : Result := (s.setAlu (sub8 s.a n s.flagC)).finish (.sbcN n)

/-- `AND r` (R119). -/
def execAndR (r : Reg8) (s : State) : Result := (s.setAlu (logic8 (s.a &&& (s.getReg r)) true)).finish (.andR r)

/-- `AND (HL)` (R120). -/
def execAndAtHL (s : State) : Result :=
  let m := s.readByte s.hl
  (m.2.setAlu (logic8 (s.a &&& m.1) true)).finish .andAtHL

/-- `AND n` (R121). -/
def execAndN (n : Byte) (s : State) : Result := (s.setAlu (logic8 (s.a &&& n) true)).finish (.andN n)

/-- `XOR r` (R122). -/
def execXorR (r : Reg8) (s : State) : Result := (s.setAlu (logic8 (s.a ^^^ (s.getReg r)) false)).finish (.xorR r)

/-- `XOR (HL)` (R123). -/
def execXorAtHL (s : State) : Result :=
  let m := s.readByte s.hl
  (m.2.setAlu (logic8 (s.a ^^^ m.1) false)).finish .xorAtHL

/-- `XOR n` (R124). -/
def execXorN (n : Byte) (s : State) : Result := (s.setAlu (logic8 (s.a ^^^ n) false)).finish (.xorN n)

/-- `OR r` (R125). -/
def execOrR (r : Reg8) (s : State) : Result := (s.setAlu (logic8 (s.a ||| (s.getReg r)) false)).finish (.orR r)

/-- `OR (HL)` (R126). -/
def execOrAtHL (s : State) : Result :=
  let m := s.readByte s.hl
  (m.2.setAlu (logic8 (s.a ||| m.1) false)).finish .orAtHL

/-- `OR n` (R127). -/
def execOrN (n : Byte) (s : State) : Result := (s.setAlu (logic8 (s.a ||| n) false)).finish (.orN n)

/-- `CP r` (R128). -/
def execCpR (r : Reg8) (s : State) : Result := (s.setAluFlags (sub8 s.a (s.getReg r) false)).finish (.cpR r)

/-- `CP (HL)` (R129). -/
def execCpAtHL (s : State) : Result :=
  let m := s.readByte s.hl
  (m.2.setAluFlags (sub8 s.a m.1 false)).finish .cpAtHL

/-- `CP n` (R130). -/
def execCpN (n : Byte) (s : State) : Result := (s.setAluFlags (sub8 s.a n false)).finish (.cpN n)

/-- `INC r` (R131): C is unchanged. -/
def execIncR (r : Reg8) (s : State) : Result :=
  let o := inc8 (s.getReg r)
  ((s.setReg r o.1).setFlags (some o.2.1) (some false) (some o.2.2) none).finish (.incR r)

/-- `INC (HL)` (R132): one read, then one write at HL. -/
def execIncAtHL (s : State) : Result :=
  let m := s.readByte s.hl
  let o := inc8 m.1
  ((m.2.writeByte s.hl o.1).setFlags (some o.2.1) (some false) (some o.2.2) none).finish .incAtHL

/-- `DEC r` (R133): C is unchanged. -/
def execDecR (r : Reg8) (s : State) : Result :=
  let o := dec8 (s.getReg r)
  ((s.setReg r o.1).setFlags (some o.2.1) (some true) (some o.2.2) none).finish (.decR r)

/-- `DEC (HL)` (R134): one read, then one write at HL. -/
def execDecAtHL (s : State) : Result :=
  let m := s.readByte s.hl
  let o := dec8 m.1
  ((m.2.writeByte s.hl o.1).setFlags (some o.2.1) (some true) (some o.2.2) none).finish .decAtHL

/-- `DAA` (R135). -/
def execDaa (s : State) : Result :=
  let o := daa8 s.a s.flagN s.flagH s.flagC
  ({ s with a := o.1 }.setFlags (some (o.1 == 0)) none (some false) (some o.2)).finish .daa

/-- `CPL` (R136). -/
def execCpl (s : State) : Result :=
  ({ s with a := s.a ^^^ 0xFF }.setFlags none (some true) (some true) none).finish .cpl

/-- `SCF` (R137). -/
def execScf (s : State) : Result := (s.setFlags none (some false) (some false) (some true)).finish .scf

/-- `CCF` (R138). -/
def execCcf (s : State) : Result := (s.setFlags none (some false) (some false) (some (!s.flagC))).finish .ccf

end Sys2Proof.Machine
end

