-- ==== Sys2Proof/Machine/Cb.lean ====
section
/-! DEFINITION. The meanings of 43_cb.md, the secondary table: rotates, shifts, `SWAP`, `BIT`, `RES`, `SET`, on a register and
on the memory byte at HL; and `PREFIX CB` (R271), whose meaning is that of the entry it selects. -/

namespace Sys2Proof.Machine

/-- `RLC r` (R172). -/
def execRlcR (r : Reg8) (s : State) : Result := (s.shiftReg rlc8 r).finish (.rlcR r)

/-- `RLC (HL)` (R173). -/
def execRlcAtHL (s : State) : Result := (s.shiftHL rlc8).finish .rlcAtHL

/-- `RRC r` (R174). -/
def execRrcR (r : Reg8) (s : State) : Result := (s.shiftReg rrc8 r).finish (.rrcR r)

/-- `RRC (HL)` (R175). -/
def execRrcAtHL (s : State) : Result := (s.shiftHL rrc8).finish .rrcAtHL

/-- `RL r` (R176). -/
def execRlR (r : Reg8) (s : State) : Result := (s.shiftReg (rl8 s.flagC) r).finish (.rlR r)

/-- `RL (HL)` (R177). -/
def execRlAtHL (s : State) : Result := (s.shiftHL (rl8 s.flagC)).finish .rlAtHL

/-- `RR r` (R178). -/
def execRrR (r : Reg8) (s : State) : Result := (s.shiftReg (rr8 s.flagC) r).finish (.rrR r)

/-- `RR (HL)` (R179). -/
def execRrAtHL (s : State) : Result := (s.shiftHL (rr8 s.flagC)).finish .rrAtHL

/-- `SLA r` (R180). -/
def execSlaR (r : Reg8) (s : State) : Result := (s.shiftReg sla8 r).finish (.slaR r)

/-- `SLA (HL)` (R181). -/
def execSlaAtHL (s : State) : Result := (s.shiftHL sla8).finish .slaAtHL

/-- `SRA r` (R182). -/
def execSraR (r : Reg8) (s : State) : Result := (s.shiftReg sra8 r).finish (.sraR r)

/-- `SRA (HL)` (R183). -/
def execSraAtHL (s : State) : Result := (s.shiftHL sra8).finish .sraAtHL

/-- `SWAP r` (R184). -/
def execSwapR (r : Reg8) (s : State) : Result := (s.shiftReg swap8 r).finish (.swapR r)

/-- `SWAP (HL)` (R185). -/
def execSwapAtHL (s : State) : Result := (s.shiftHL swap8).finish .swapAtHL

/-- `SRL r` (R186). -/
def execSrlR (r : Reg8) (s : State) : Result := (s.shiftReg srl8 r).finish (.srlR r)

/-- `SRL (HL)` (R187). -/
def execSrlAtHL (s : State) : Result := (s.shiftHL srl8).finish .srlAtHL

/-- `BIT b,r` (R188): Z is the complement of the bit, C is unchanged, no register is written. -/
def execBitR (b : BitVec 3) (r : Reg8) (s : State) : Result :=
  (s.setFlags (some (!testBit8 b (s.getReg r))) (some false) (some true) none).finish (.bitR b r)

/-- `BIT b,(HL)` (R189): one read, no write. -/
def execBitAtHL (b : BitVec 3) (s : State) : Result :=
  let m := s.readByte s.hl
  (m.2.setFlags (some (!testBit8 b m.1)) (some false) (some true) none).finish (.bitAtHL b)

/-- `RES b,r` (R190). -/
def execResR (b : BitVec 3) (r : Reg8) (s : State) : Result := (s.modifyReg (resBit8 b) r).finish (.resR b r)

/-- `RES b,(HL)` (R191). -/
def execResAtHL (b : BitVec 3) (s : State) : Result := (s.modifyHL (resBit8 b)).finish (.resAtHL b)

/-- `SET b,r` (R192). -/
def execSetR (b : BitVec 3) (r : Reg8) (s : State) : Result := (s.modifyReg (setBit8 b) r).finish (.setR b r)

/-- `SET b,(HL)` (R193). -/
def execSetAtHL (b : BitVec 3) (s : State) : Result := (s.modifyHL (setBit8 b)).finish (.setAtHL b)

/-- The rotate or shift `rot[y] r` (R79). -/
def execRotR (y : BitVec 3) (r : Reg8) (s : State) : Result :=
  match y with
  | 0 => execRlcR r s
  | 1 => execRrcR r s
  | 2 => execRlR r s
  | 3 => execRrR r s
  | 4 => execSlaR r s
  | 5 => execSraR r s
  | 6 => execSwapR r s
  | _ => execSrlR r s

/-- The rotate or shift `rot[y] (HL)` (R79). -/
def execRotHL (y : BitVec 3) (s : State) : Result :=
  match y with
  | 0 => execRlcAtHL s
  | 1 => execRrcAtHL s
  | 2 => execRlAtHL s
  | 3 => execRrAtHL s
  | 4 => execSlaAtHL s
  | 5 => execSraAtHL s
  | 6 => execSwapAtHL s
  | _ => execSrlAtHL s

/-- `PREFIX CB` (R271, R82): the entry `cb` of the secondary table executes; the prefix has no effect and no ticks of its
own. -/
def execPrefixCB (cb : Byte) (s : State) : Result :=
  match fieldX cb, regOfIndex (fieldZ cb) with
  | 0, some r => execRotR (fieldY cb) r s
  | 0, none => execRotHL (fieldY cb) s
  | 1, some r => execBitR (fieldY cb) r s
  | 1, none => execBitAtHL (fieldY cb) s
  | 2, some r => execResR (fieldY cb) r s
  | 2, none => execResAtHL (fieldY cb) s
  | _, some r => execSetR (fieldY cb) r s
  | _, none => execSetAtHL (fieldY cb) s

end Sys2Proof.Machine
end

