-- ==== Sys2Proof/Machine/Control.lean ====
section
/-! DEFINITION. The meanings of 46_control.md: jumps, calls, returns, restarts. PC is already past the instruction, so it is
the address a relative jump adds to and a call pushes (R19). -/

namespace Sys2Proof.Machine

/-- The relative jump (R249): `PC <- PC + sext_16(e)`. -/
def State.jumpRel (s : State) (e : Byte) : State := { s with pc := s.pc + sext16 e }

/-- A call (R252): push PC, then `PC <- target`. -/
def State.callTo (s : State) (target : Word) : State := { (s.pushWord s.pc) with pc := target }

/-- The address `8 * t` of a restart (R80, R257). -/
def rstTarget (t : BitVec 3) : Word := 8 * t.setWidth 16

/-- `JP nn` (R246). -/
def execJpNN (nn : Word) (s : State) : Result := { s with pc := nn }.finish (.jpNN nn)

/-- `JP cc,nn` (R247). -/
def execJpCond (cc : Cond) (nn : Word) (s : State) : Result :=
  if s.cond cc then { s with pc := nn }.finish (.jpCond cc nn)
  else s.finishNotTaken (.jpCond cc nn)

/-- `JP HL` (R248): no memory is read. -/
def execJpHL (s : State) : Result := { s with pc := s.hl }.finish .jpHL

/-- `JR e` (R249). -/
def execJrE (e : Byte) (s : State) : Result := (s.jumpRel e).finish (.jrE e)

/-- `JR cc,e` (R250). -/
def execJrCond (cc : Cond) (e : Byte) (s : State) : Result :=
  if s.cond cc then (s.jumpRel e).finish (.jrCond cc e)
  else s.finishNotTaken (.jrCond cc e)

/-- `CALL nn` (R252). -/
def execCallNN (nn : Word) (s : State) : Result := (s.callTo nn).finish (.callNN nn)

/-- `CALL cc,nn` (R253). -/
def execCallCond (cc : Cond) (nn : Word) (s : State) : Result :=
  if s.cond cc then (s.callTo nn).finish (.callCond cc nn)
  else s.finishNotTaken (.callCond cc nn)

/-- `RET` (R254). -/
def execRet (s : State) : Result := s.popPC.finish .ret

/-- `RET cc` (R255). -/
def execRetCond (cc : Cond) (s : State) : Result :=
  if s.cond cc then s.popPC.finish (.retCond cc)
  else s.finishNotTaken (.retCond cc)

/-- `RST t` (R257). -/
def execRst (t : BitVec 3) (s : State) : Result := (s.callTo (rstTarget t)).finish (.rst t)

end Sys2Proof.Machine
end

