-- ==== Sys2Proof/Machine/Load16.lean ====
section
/-! DEFINITION. The meanings of 45_load16_stack.md: the 16-bit loads, `PUSH` and `POP`. -/

namespace Sys2Proof.Machine

/-- `LD rr,nn` (R232). -/
def execLdPairNN (p : RegPair) (nn : Word) (s : State) : Result := (s.setRP p nn).finish (.ldPairNN p nn)

/-- `LD HL,SP+e` (R233): SP is not changed. -/
def execLdHLSPE (e : Byte) (s : State) : Result :=
  let o := addsp s.sp e
  ((s.setHL o.1).setFlags (some false) (some false) (some o.2.1) (some o.2.2)).finish (.ldHLSPE e)

/-- `LD SP,HL` (R234). -/
def execLdSPHL (s : State) : Result := { s with sp := s.hl }.finish .ldSPHL

/-- `LD (nn),SP` (R235). -/
def execLdAtNNSP (nn : Word) (s : State) : Result := (s.writeWord nn s.sp).finish (.ldAtNNSP nn)

/-- `PUSH qq` (R236). -/
def execPushPair (p : StackPair) (s : State) : Result := (s.pushWord (s.getPair p)).finish (.pushPair p)

/-- `POP AF` (R237): the low four bits of the popped flag byte are dropped. -/
def execPopAF (s : State) : Result :=
  let r := s.popWord
  (r.2.setPair .af r.1).finish .popAF

/-- `POP rr` (R238). -/
def execPopPair (p : StackPair) (s : State) : Result :=
  let r := s.popWord
  (r.2.setPair p r.1).finish (.popPair p)

end Sys2Proof.Machine
end

