-- ==== Sys2Proof/Machine/Load8.lean ====
section
/-! DEFINITION. The meanings of 44_load8.md, the 8-bit loads. None changes a flag. -/

namespace Sys2Proof.Machine

/-- `LD r,r'` (R200). -/
def execLdRR (dst src : Reg8) (s : State) : Result := (s.setReg dst (s.getReg src)).finish (.ldRR dst src)

/-- `LD r,n` (R201). -/
def execLdRN (r : Reg8) (n : Byte) (s : State) : Result := (s.setReg r n).finish (.ldRN r n)

/-- `LD r,(HL)` (R202): the address is HL before the instruction. -/
def execLdRAtHL (r : Reg8) (s : State) : Result :=
  let m := s.readByte s.hl
  (m.2.setReg r m.1).finish (.ldRAtHL r)

/-- `LD (HL),r` (R203). -/
def execLdAtHLR (r : Reg8) (s : State) : Result := (s.writeByte s.hl (s.getReg r)).finish (.ldAtHLR r)

/-- `LD (HL),n` (R204). -/
def execLdAtHLN (n : Byte) (s : State) : Result := (s.writeByte s.hl n).finish (.ldAtHLN n)

/-- `LD A,(BC)` (R205). -/
def execLdAAtBC (s : State) : Result := (s.loadA s.bc).finish .ldAAtBC

/-- `LD A,(DE)` (R206). -/
def execLdAAtDE (s : State) : Result := (s.loadA s.de).finish .ldAAtDE

/-- `LD (BC),A` (R207). -/
def execLdAtBCA (s : State) : Result := (s.writeByte s.bc s.a).finish .ldAtBCA

/-- `LD (DE),A` (R208). -/
def execLdAtDEA (s : State) : Result := (s.writeByte s.de s.a).finish .ldAtDEA

/-- `LD A,(nn)` (R209). -/
def execLdAAtNN (nn : Word) (s : State) : Result := (s.loadA nn).finish (.ldAAtNN nn)

/-- `LD (nn),A` (R210). -/
def execLdAtNNA (nn : Word) (s : State) : Result := (s.writeByte nn s.a).finish (.ldAtNNA nn)

/-- `LDH A,(C)` (R211). -/
def execLdhAAtC (s : State) : Result := (s.loadA (hiPage s.c)).finish .ldhAAtC

/-- `LDH (C),A` (R212). -/
def execLdhAtCA (s : State) : Result := (s.writeByte (hiPage s.c) s.a).finish .ldhAtCA

/-- `LDH A,(n)` (R213). -/
def execLdhAAtN (n : Byte) (s : State) : Result := (s.loadA (hiPage n)).finish (.ldhAAtN n)

/-- `LDH (n),A` (R214). -/
def execLdhAtNA (n : Byte) (s : State) : Result := (s.writeByte (hiPage n) s.a).finish (.ldhAtNA n)

/-- `LD A,(HL+)` (R215). -/
def execLdAAtHLInc (s : State) : Result := ((s.loadA s.hl).setHL (s.hl + 1)).finish .ldAAtHLInc

/-- `LD A,(HL-)` (R216). -/
def execLdAAtHLDec (s : State) : Result := ((s.loadA s.hl).setHL (s.hl - 1)).finish .ldAAtHLDec

/-- `LD (HL+),A` (R217). -/
def execLdAtHLIncA (s : State) : Result := ((s.writeByte s.hl s.a).setHL (s.hl + 1)).finish .ldAtHLIncA

/-- `LD (HL-),A` (R218). -/
def execLdAtHLDecA (s : State) : Result := ((s.writeByte s.hl s.a).setHL (s.hl - 1)).finish .ldAtHLDecA

end Sys2Proof.Machine
end

