-- ==== Sys2Proof/Machine/RotateA.lean ====
section
/-! DEFINITION. The meanings of 42_rotate_a.md: `RLCA`, `RRCA`, `RLA`, `RRA`. -/

namespace Sys2Proof.Machine

/-- `RLCA` (R160). -/
def execRlca (s : State) : Result := (s.rotateA rlc8).finish .rlca

/-- `RRCA` (R161). -/
def execRrca (s : State) : Result := (s.rotateA rrc8).finish .rrca

/-- `RLA` (R162). -/
def execRla (s : State) : Result := (s.rotateA (rl8 s.flagC)).finish .rla

/-- `RRA` (R163). -/
def execRra (s : State) : Result := (s.rotateA (rr8 s.flagC)).finish .rra

end Sys2Proof.Machine
end

