-- ==== Sys2Proof/Machine/System.lean ====
section
/-! DEFINITION. The meanings of 47_system.md: `NOP`, `HALT`, `STOP`, `DI`, `EI`, `RETI` and the illegal first bytes. -/

namespace Sys2Proof.Machine

/-- `NOP` (R265). -/
def execNop (s : State) : Result := s.finish .nop

/-- `HALT` (R266): with IME off and a source pending the core does not halt and the HALT bug is armed. -/
def execHalt (s : State) : Result :=
  if s.ime then { s with runState := .halted }.finish .halt
  else if s.interruptPending then { s with haltBug := true }.finish .halt
  else { s with runState := .halted }.finish .halt

/-- `STOP` (R267): a bare halt, whatever IME, IE and IF are. -/
def execStop (s : State) : Result := { s with runState := .halted }.finish .stop

/-- `DI` (R268). -/
def execDi (s : State) : Result := { s with ime := false }.finish .di

/-- `EI` (R269): no delay. -/
def execEi (s : State) : Result := { s with ime := true }.finish .ei

/-- `RETI` (R270). -/
def execReti (s : State) : Result := s.returnFromInterrupt.finish .reti

/-- An illegal opcode (R272): a log event and 0 ticks, nothing else. -/
def execIllegal (op : Byte) (s : State) : Result := .next ((s.note (.logIllegal op)).setCycles cycIllegal)

end Sys2Proof.Machine
end

