-- ==== Sys2Proof/Machine/Dispatch.lean ====
section
/-! DEFINITION. One arm for each constructor of Instr: the execution part of an instruction (R70 step 5), on the state the
fetch has left, in which PC is past the instruction's bytes (R19). -/

namespace Sys2Proof.Machine

def exec (i : Instr) (s : State) : Host.Outcome State Fault Refusal :=
  match i with
  | .nop => Sys2Proof.Machine.execNop s
  | .ldPairNN p nn => Sys2Proof.Machine.execLdPairNN p nn s
  | .ldAtBCA => Sys2Proof.Machine.execLdAtBCA s
  | .ldAtDEA => Sys2Proof.Machine.execLdAtDEA s
  | .ldAtHLIncA => Sys2Proof.Machine.execLdAtHLIncA s
  | .ldAtHLDecA => Sys2Proof.Machine.execLdAtHLDecA s
  | .incPair p => Sys2Proof.Machine.execIncPair p s
  | .incR r => Sys2Proof.Machine.execIncR r s
  | .incAtHL => Sys2Proof.Machine.execIncAtHL s
  | .decR r => Sys2Proof.Machine.execDecR r s
  | .decAtHL => Sys2Proof.Machine.execDecAtHL s
  | .ldRN r n => Sys2Proof.Machine.execLdRN r n s
  | .ldAtHLN n => Sys2Proof.Machine.execLdAtHLN n s
  | .rlca => Sys2Proof.Machine.execRlca s
  | .ldAtNNSP nn => Sys2Proof.Machine.execLdAtNNSP nn s
  | .addHLPair p => Sys2Proof.Machine.execAddHLPair p s
  | .ldAAtBC => Sys2Proof.Machine.execLdAAtBC s
  | .ldAAtDE => Sys2Proof.Machine.execLdAAtDE s
  | .ldAAtHLInc => Sys2Proof.Machine.execLdAAtHLInc s
  | .ldAAtHLDec => Sys2Proof.Machine.execLdAAtHLDec s
  | .decPair p => Sys2Proof.Machine.execDecPair p s
  | .rrca => Sys2Proof.Machine.execRrca s
  | .stop => Sys2Proof.Machine.execStop s
  | .rla => Sys2Proof.Machine.execRla s
  | .jrE e => Sys2Proof.Machine.execJrE e s
  | .rra => Sys2Proof.Machine.execRra s
  | .jrCond cc e => Sys2Proof.Machine.execJrCond cc e s
  | .daa => Sys2Proof.Machine.execDaa s
  | .cpl => Sys2Proof.Machine.execCpl s
  | .scf => Sys2Proof.Machine.execScf s
  | .ccf => Sys2Proof.Machine.execCcf s
  | .ldRR dst src => Sys2Proof.Machine.execLdRR dst src s
  | .ldRAtHL r => Sys2Proof.Machine.execLdRAtHL r s
  | .ldAtHLR r => Sys2Proof.Machine.execLdAtHLR r s
  | .halt => Sys2Proof.Machine.execHalt s
  | .addR r => Sys2Proof.Machine.execAddR r s
  | .addAtHL => Sys2Proof.Machine.execAddAtHL s
  | .addN n => Sys2Proof.Machine.execAddN n s
  | .adcR r => Sys2Proof.Machine.execAdcR r s
  | .adcAtHL => Sys2Proof.Machine.execAdcAtHL s
  | .adcN n => Sys2Proof.Machine.execAdcN n s
  | .subR r => Sys2Proof.Machine.execSubR r s
  | .subAtHL => Sys2Proof.Machine.execSubAtHL s
  | .subN n => Sys2Proof.Machine.execSubN n s
  | .sbcR r => Sys2Proof.Machine.execSbcR r s
  | .sbcAtHL => Sys2Proof.Machine.execSbcAtHL s
  | .sbcN n => Sys2Proof.Machine.execSbcN n s
  | .andR r => Sys2Proof.Machine.execAndR r s
  | .andAtHL => Sys2Proof.Machine.execAndAtHL s
  | .andN n => Sys2Proof.Machine.execAndN n s
  | .xorR r => Sys2Proof.Machine.execXorR r s
  | .xorAtHL => Sys2Proof.Machine.execXorAtHL s
  | .xorN n => Sys2Proof.Machine.execXorN n s
  | .orR r => Sys2Proof.Machine.execOrR r s
  | .orAtHL => Sys2Proof.Machine.execOrAtHL s
  | .orN n => Sys2Proof.Machine.execOrN n s
  | .cpR r => Sys2Proof.Machine.execCpR r s
  | .cpAtHL => Sys2Proof.Machine.execCpAtHL s
  | .cpN n => Sys2Proof.Machine.execCpN n s
  | .retCond cc => Sys2Proof.Machine.execRetCond cc s
  | .popPair p => Sys2Proof.Machine.execPopPair p s
  | .popAF => Sys2Proof.Machine.execPopAF s
  | .jpCond cc nn => Sys2Proof.Machine.execJpCond cc nn s
  | .jpNN nn => Sys2Proof.Machine.execJpNN nn s
  | .callCond cc nn => Sys2Proof.Machine.execCallCond cc nn s
  | .pushPair p => Sys2Proof.Machine.execPushPair p s
  | .rst t => Sys2Proof.Machine.execRst t s
  | .ret => Sys2Proof.Machine.execRet s
  | .prefixCB cb => Sys2Proof.Machine.execPrefixCB cb s
  | .callNN nn => Sys2Proof.Machine.execCallNN nn s
  | .reti => Sys2Proof.Machine.execReti s
  | .ldhAtNA n => Sys2Proof.Machine.execLdhAtNA n s
  | .ldhAtCA => Sys2Proof.Machine.execLdhAtCA s
  | .addSPE e => Sys2Proof.Machine.execAddSPE e s
  | .jpHL => Sys2Proof.Machine.execJpHL s
  | .ldAtNNA nn => Sys2Proof.Machine.execLdAtNNA nn s
  | .ldhAAtN n => Sys2Proof.Machine.execLdhAAtN n s
  | .ldhAAtC => Sys2Proof.Machine.execLdhAAtC s
  | .di => Sys2Proof.Machine.execDi s
  | .ldHLSPE e => Sys2Proof.Machine.execLdHLSPE e s
  | .ldSPHL => Sys2Proof.Machine.execLdSPHL s
  | .ldAAtNN nn => Sys2Proof.Machine.execLdAAtNN nn s
  | .ei => Sys2Proof.Machine.execEi s
  | .illegal op => Sys2Proof.Machine.execIllegal op s
  | .rlcR r => Sys2Proof.Machine.execRlcR r s
  | .rlcAtHL => Sys2Proof.Machine.execRlcAtHL s
  | .rrcR r => Sys2Proof.Machine.execRrcR r s
  | .rrcAtHL => Sys2Proof.Machine.execRrcAtHL s
  | .rlR r => Sys2Proof.Machine.execRlR r s
  | .rlAtHL => Sys2Proof.Machine.execRlAtHL s
  | .rrR r => Sys2Proof.Machine.execRrR r s
  | .rrAtHL => Sys2Proof.Machine.execRrAtHL s
  | .slaR r => Sys2Proof.Machine.execSlaR r s
  | .slaAtHL => Sys2Proof.Machine.execSlaAtHL s
  | .sraR r => Sys2Proof.Machine.execSraR r s
  | .sraAtHL => Sys2Proof.Machine.execSraAtHL s
  | .swapR r => Sys2Proof.Machine.execSwapR r s
  | .swapAtHL => Sys2Proof.Machine.execSwapAtHL s
  | .srlR r => Sys2Proof.Machine.execSrlR r s
  | .srlAtHL => Sys2Proof.Machine.execSrlAtHL s
  | .bitR b r => Sys2Proof.Machine.execBitR b r s
  | .bitAtHL b => Sys2Proof.Machine.execBitAtHL b s
  | .resR b r => Sys2Proof.Machine.execResR b r s
  | .resAtHL b => Sys2Proof.Machine.execResAtHL b s
  | .setR b r => Sys2Proof.Machine.execSetR b r s
  | .setAtHL b => Sys2Proof.Machine.execSetAtHL b s

end Sys2Proof.Machine
end

