-- ==== Sys2Proof/Machine/Fetch.lean ====
section
/-! DEFINITION. The part of `step` before an instruction executes (R70 steps 1 to 5): the halted test, the breakpoint compare,
the opcode fetch with the HALT-bug suppression (R72), the soft-break test, and the fetch of the operand bytes. An
instruction's operand bytes are all read before it executes (log entry 8). -/

namespace Sys2Proof.Machine

/-- `fetch8()` (00_scope.md, notation): read at PC, then PC up by 1. -/
def State.fetch8 (s : State) : Byte × State :=
  let r := s.readByte s.pc
  (r.1, { r.2 with pc := s.pc + 1 })

/-- `fetch_opcode()` (R72): under `halt_bug` the PC is not incremented, this once. -/
def State.fetchOpcode (s : State) : Byte × State :=
  let r := s.readByte s.pc
  if s.haltBug then (r.1, { r.2 with haltBug := false }) else (r.1, { r.2 with pc := s.pc + 1 })

/-- The breakpoint compare, before the fetch (R70 step 2, R300). -/
def State.checkBreakpoint (s : State) : State :=
  if s.breakpoint = some s.pc then { s with paused := true } else s

/-- The soft-break test on a byte fetched as an opcode (R70 step 4, R300). -/
def State.checkSoftBreak (s : State) (op : Byte) : State :=
  if s.softBreak && op == 0x40 then { s with paused := true } else s

/-- The operand bytes of the instruction that begins with `op`, as many as it has (R73), each by `fetch8()`; the bytes it
does not have are given as 0. -/
def State.fetchOperands (s : State) (op : Byte) : Byte × Byte × State :=
  match opLength op with
  | 2 =>
    let r := s.fetch8
    (r.1, 0, r.2)
  | 3 =>
    let r := s.fetch8
    let q := r.2.fetch8
    (r.1, q.1, q.2)
  | _ => (0, 0, s)

/-- The whole fetch of a running core (R70 steps 2 to 5): the instruction, and the state it executes in. -/
def State.fetchInstr (s : State) : Instr × State :=
  let r := s.checkBreakpoint.fetchOpcode
  let q := (r.2.checkSoftBreak r.1).fetchOperands r.1
  (decodeOp r.1 q.1 q.2.1, q.2.2)

/-- `step` up to execution: a halted core fetches nothing and returns `CYC_HALTED` (R70 step 1). -/
def State.prepare (s : State) : Option Instr × State :=
  match s.runState with
  | .halted => (none, s.setCycles cycHalted)
  | .running => (some s.fetchInstr.1, s.fetchInstr.2)

end Sys2Proof.Machine
end

