-- ==== Sys2Proof/Machine/Round.lean ====
section
/-! DEFINITION. The host's side of a round (R8): after a `step` that returned N, N times { one tick of the peripherals, one
call of `handle_interrupt` }, and 20 more ticks when a call services. The peripherals themselves are outside the block
(R4); what they and the host do to the machine between two calls on the core (R7) is the head of `inputs` (log entry 6). A round
begins with the gap before its `step`. -/

namespace Sys2Proof.Machine

/-- One action of the environment (R7). -/
def State.applyEnv (s : State) : EnvAction → State
  | .busWrite addr v => s.poke addr v
  | .setDevice device => { s with bus := { s.bus with device := device } }
  | .request src => s.poke ifAddr (s.peek ifAddr ||| src.mask.setWidth 8)
  | .setPause b => s.setPause b
  | .setBreakpoint addr => { s with breakpoint := addr }
  | .setSoftBreak b => { s with softBreak := b }

/-- Several actions, in order. -/
def State.applyEnvs (s : State) (acts : List EnvAction) : State := acts.foldl State.applyEnv s

/-- The gap between two calls on the core (R7): the environment's actions for it, if any are listed. -/
def State.envGap (s : State) : State :=
  match s.inputs with
  | [] => s
  | acts :: rest => { s with inputs := rest }.applyEnvs acts

/-- `n` ticks on the host's clock. -/
def State.charge (s : State) (n : Nat) : State := { s with clock := s.clock + n }

/-- One pass of the host's loop (R8): a tick, in which the environment acts, then `handle_interrupt`; a service is charged 20
ticks (R335), and what the environment does in those falls in the next gap (log entry 14). -/
def State.hostTick (s : State) : State :=
  let r := (s.charge 1).envGap.handleInterrupt
  if r.1 then r.2.charge cycIrq else r.2

/-- `n` passes of the host's loop. -/
def State.hostTicks (s : State) : Nat → State
  | 0 => s
  | n + 1 => s.hostTick.hostTicks n

/-- The state a round's `step` is called in: the environment has acted since the last call, and nothing is recorded yet. -/
def State.beginRound (s : State) : State := { s.envGap with trace := [] }

/-- The end of a round, after `step` has returned its ticks (R8). -/
def endRound : Result → Result
  | .next t => .next (t.hostTicks t.cycles.toNat)
  | .fault r => .fault r
  | .refused r => .refused r

end Sys2Proof.Machine
end

