-- ==== Sys2Proof/Machine/Step.lean ====
section
/-! DEFINITION. The step of the model: one host round (R8), that is what the environment does first (R7), one `step(bus)`
of the core (R70) and then, for each tick it returned, one tick of the environment and one call of `handle_interrupt` (R285).
Log entry 1. -/

namespace Sys2Proof.Machine

/-- `step(bus)` (R70): one instruction, or the 4-tick idle step of a halted core. The ticks returned stand in `cycles`. -/
def cpuStep (s : State) : Host.Outcome State Fault Refusal :=
  match s.prepare with
  | (none, t) => .next t
  | (some i, t) => exec i t

/-- One host round (R8). -/
def step (s : State) : Host.Outcome State Fault Refusal := endRound (cpuStep s.beginRound)

/-- Put bytes in memory from `addr` on. -/
def State.pokeBytes (s : State) (addr : Word) : List Byte → State
  | [] => s
  | v :: rest => (s.poke addr v).pokeBytes (addr + 1) rest

/-- No device answers the three bytes from `addr` on. -/
def BusState.clearDevices (bus : BusState) (addr : Word) : BusState :=
  { bus with devices := bus.devices.filter fun w =>
      !(w.contains addr || w.contains (addr + 1) || w.contains (addr + 2)) }

/-- The state with the instruction whose bits are `w` at PC, ready to be fetched: the core runs, no HALT bug is armed (a halted
core would not fetch, and an armed bug would read the first byte twice), the environment does nothing before the fetch, and the
bytes fetched are memory's. -/
def State.withFetchWord (s : State) (nbits w : Nat) : State :=
  { s with
    runState := .running, haltBug := false
    inputs := [] :: s.inputs
    bus := s.bus.clearDevices s.pc }.pokeBytes s.pc (tableBytes nbits w)

end Sys2Proof.Machine
end

