-- ==== Sys2Proof/Safety.lean ====
section
/-! DEFINITION. The terms claims are stated in: the machine's invariant, a run that never stops, which parts of a state an
instruction leaves alone, and what an instruction's run is said to be. -/

namespace Sys2Proof.Machine

/-! ## Invariant and runs -/

/-- The machine's invariant: the flag byte's low four bits are zero (R13), the bytes the bus holds are in their canonical form,
and while the HALT bug is armed the core runs with IME off (R23). -/
abbrev State.Inv (s : State) : Prop :=
  s.f &&& 0x0F = 0 ∧ Memory.wf s.bus.mem ∧ (s.haltBug = true → s.runState = .running ∧ s.ime = false)

/-- Every number of steps from `s` ends in a next state: no step faults, none is refused (R280). -/
def NeverStops (s : State) : Prop := ∀ k, ∃ t, core.run k s = .next t

/-! ## Bus accesses -/

/-- What `read_byte(addr)` would answer now. -/
def State.answer (s : State) (addr : Word) : Byte := (s.readByte addr).1

/-- Byte reads at the listed addresses, one after another: what they answer, and the state after. -/
def State.readBytes (s : State) : List Word → List Byte × State
  | [] => ([], s)
  | addr :: rest =>
    let r := s.readByte addr
    let q := r.2.readBytes rest
    (r.1 :: q.1, q.2)

/-- The bus after the listed accesses, whatever the bus is. -/
def BusState.after (bus : BusState) : List Event → BusState
  | [] => bus
  | .read addr _ :: rest => (bus.read addr).2.after rest
  | .write addr v :: rest => (bus.write addr v).after rest
  | .ack mask :: rest => (bus.ack mask).after rest
  | .logIllegal _ :: rest => bus.after rest

/-- No device answers at `addr`: it is memory. -/
def State.onMemory (s : State) (addr : Word) : Bool := !s.bus.isDevice addr

/-- The access is to memory. -/
def State.touchesMemory (s : State) : Event → Bool
  | .read addr _ => s.onMemory addr
  | .write addr _ => s.onMemory addr
  | .ack _ => true
  | .logIllegal _ => true

/-- The byte at `addr` after the listed accesses to memory, from the byte `v` before: the last one stored there. An
acknowledge clears bits of the byte that holds IF. -/
def byteAfter (addr : Word) (v : Byte) : List Event → Byte
  | [] => v
  | .write a w :: rest => byteAfter addr (if addr = a then w else v) rest
  | .ack mask :: rest => byteAfter addr (if addr = ifAddr then v &&& ~~~(mask.setWidth 8) else v) rest
  | .read _ _ :: rest => byteAfter addr v rest
  | .logIllegal _ :: rest => byteAfter addr v rest

/-- `t` follows `s` by exactly the accesses `events`, in that order: they are recorded, the bus is as they leave it, and where
all are to memory, every byte but those stored reads as before. -/
def Accesses (s t : State) (events : List Event) : Prop :=
  t.trace = s.trace ++ events ∧ t.bus = s.bus.after events ∧
  ((∀ ev ∈ events, s.touchesMemory ev = true) → ∀ addr, t.peek addr = byteAfter addr (s.peek addr) events)

/-- The byte at `addr`, if memory, is `v`. -/
def Stored (s t : State) (addr : Word) (v : Byte) : Prop := s.onMemory addr = true → t.peek addr = v

/-- The two bytes from `addr` on, if memory, are the low and the high byte of `v`. -/
def StoredWord (s t : State) (addr v : Word) : Prop :=
  s.onMemory addr = true → s.onMemory (addr + 1) = true →
    (t.peek addr).toNat = v.toNat % 256 ∧ (t.peek (addr + 1)).toNat = v.toNat / 256

/-! ## Frames -/

/-- The parts of a state a frame speaks of. The two outputs, `cycles` and `trace`, are not among them: each claim gives
their values. -/
inductive Part where
  | reg (r : Reg8) | flags | sp | pc | ime | runState | haltBug | debug | bus | env | ticks
  deriving DecidableEq, Repr

/-- Part `p` is the same in both states. -/
def SamePart (s t : State) : Part → Prop
  | .reg r => t.getReg r = s.getReg r
  | .flags => t.f = s.f
  | .sp => t.sp = s.sp
  | .pc => t.pc = s.pc
  | .ime => t.ime = s.ime
  | .runState => t.runState = s.runState
  | .haltBug => t.haltBug = s.haltBug
  | .debug => t.breakpoint = s.breakpoint ∧ t.paused = s.paused ∧ t.softBreak = s.softBreak
  | .bus => t.bus = s.bus
  | .env => t.inputs = s.inputs ∧ t.clock = s.clock
  | .ticks => t.ticks = s.ticks

/-- Every part but those listed is the same in both states. -/
def SameOutside (ps : List Part) (s t : State) : Prop := ∀ p, p ∉ ps → SamePart s t p

/-- The four flags of `t`, and the flag byte's low four bits as they were in `s` (R15). -/
def FlagsBecome (s t : State) (z n h c : Bool) : Prop :=
  t.flagZ = z ∧ t.flagN = n ∧ t.flagH = h ∧ t.flagC = c ∧ t.f &&& 0x0F = s.f &&& 0x0F

/-- The parts a pair of table `rp` is made of (R76). -/
def pairParts : RegPair → List Part
  | .bc => [.reg .b, .reg .c]
  | .de => [.reg .d, .reg .e]
  | .hl => [.reg .h, .reg .l]
  | .sp => [.sp]

/-- The parts a pair of table `rp2` is made of (R76). -/
def stackPairParts : StackPair → List Part
  | .bc => [.reg .b, .reg .c]
  | .de => [.reg .d, .reg .e]
  | .hl => [.reg .h, .reg .l]
  | .af => [.reg .a, .flags]

/-- The state with every debug field at its reset value (R30). -/
def State.withoutDebug (s : State) : State := { s with breakpoint := none, paused := false, softBreak := false }

/-! ## What an instruction does -/

/-- The bytes decode to `i`, whatever follows them. -/
def DecodesTo (bytes : List Byte) (i : Instr) : Prop := ∀ rest, decode (bytes ++ rest) = .ok (i, rest)

/-- The bytes are the instruction `i`, and `exec i s` answers a next state: it returns exactly `cycles`, makes exactly the
accesses `events` in that order, satisfies `P`, and leaves alone every part of the state but `changes` and, by its accesses, the
bus. -/
def DoesIn (s : State) (bytes : List Byte) (i : Instr) (cycles : Byte) (events : List Event) (changes : List Part)
    (P : State → Prop) : Prop :=
  DecodesTo bytes i ∧
  ∃ t, exec i s = .next t ∧ t.cycles = cycles ∧ Accesses s t events ∧ P t ∧ SameOutside (.bus :: changes) s t

/-- `DoesIn` for an instruction without a condition: it returns what the tick table lists for its opcode, and `ticks`, the
default of R336, where the table lists nothing (R337). -/
def Does (s : State) (bytes : List Byte) (i : Instr) (ticks : Byte) (events : List Event) (changes : List Part)
    (P : State → Prop) : Prop :=
  DoesIn s bytes i (s.ticksAt bytes true ticks) events changes P

/-- The three operand forms of an 8-bit operation on A (R100). `P` is told the bytes, the instruction, the second operand,
the accesses and the ticks. -/
def ForEachOperand (s : State) (onR : Reg8 → Instr) (atHL : Instr) (onN : Byte → Instr) (block imm : Byte)
    (P : List Byte → Instr → Byte → List Event → Byte → Prop) : Prop :=
  (∀ r, P [block + regIndex r] (onR r) (s.getReg r) [] 4) ∧
  P [block + 6] atHL (s.answer s.hl) [.read s.hl (s.answer s.hl)] 8 ∧
  (∀ n, P [imm, n] (onN n) n [] 8)

/-- The two forms of a secondary-table operation that writes its operand back (R170): a register, or the byte at HL with
one read and one write. `f` gives the operand's new value; `P` is told the state after and the operand before. -/
def ForEachTarget (s : State) (onR : Reg8 → Instr) (atHL : Instr) (base : Byte) (changes : List Part) (f : Byte → Byte)
    (P : State → Byte → Prop) : Prop :=
  (∀ r, Does s [0xCB, base + regIndex r] (onR r) 8 [] (.reg r :: changes) fun t =>
    t.getReg r = f (s.getReg r) ∧ P t (s.getReg r)) ∧
  Does s [0xCB, base + 6] atHL 16 [.read s.hl (s.answer s.hl), .write s.hl (f (s.answer s.hl))] changes fun t =>
    Stored s t s.hl (f (s.answer s.hl)) ∧ P t (s.answer s.hl)

/-- A condition, read from the flag byte (R14, R245): Z is bit 7, C is bit 4. -/
def condHolds (f : Byte) : Cond → Bool
  | .nz => f.toNat / 128 % 2 == 0
  | .z => f.toNat / 128 % 2 == 1
  | .nc => f.toNat / 16 % 2 == 0
  | .c => f.toNat / 16 % 2 == 1

/-- The instructions that write the flag byte (R16, and the flag-effect index of 10_state.md); `POP AF` replaces it
whole (R237), and so would the ill-formed `popPair .af`. -/
def WritesFlags : Instr → Bool
  | .addR _ | .addAtHL | .addN _ | .adcR _ | .adcAtHL | .adcN _ => true
  | .subR _ | .subAtHL | .subN _ | .sbcR _ | .sbcAtHL | .sbcN _ => true
  | .andR _ | .andAtHL | .andN _ | .xorR _ | .xorAtHL | .xorN _ => true
  | .orR _ | .orAtHL | .orN _ | .cpR _ | .cpAtHL | .cpN _ => true
  | .incR _ | .incAtHL | .decR _ | .decAtHL => true
  | .daa | .cpl | .scf | .ccf => true
  | .addHLPair _ | .addSPE _ | .ldHLSPE _ => true
  | .rlca | .rrca | .rla | .rra => true
  | .rlcR _ | .rlcAtHL | .rrcR _ | .rrcAtHL | .rlR _ | .rlAtHL | .rrR _ | .rrAtHL => true
  | .slaR _ | .slaAtHL | .sraR _ | .sraAtHL | .swapR _ | .swapAtHL | .srlR _ | .srlAtHL => true
  | .bitR _ _ | .bitAtHL _ => true
  | .popAF | .popPair .af => true
  | .prefixCB cb => fieldX cb == 0 || fieldX cb == 1
  | _ => false

end Sys2Proof.Machine
end

