-- ==== Sys2Proof/WellFormed.lean ====
section
/-! DEFINITION. Which terms of Instr are instructions of the hardware: the operand values a row of the table excludes. Every
other operand value of every row is legal (R84). -/

namespace Sys2Proof

/-- An illegal row's byte is a member of `ILLEGAL_SET` (R83); `POP rr` does not name AF, whose row is `POP AF` (R237, R238);
and PREFIX CB is no instruction apart from the secondary entry it selects (R271). -/
def WellFormed : Instr → Bool
  | .illegal op => Config.illegalSet.contains op
  | .popPair p => p != .af
  | .prefixCB _ => false
  | _ => true

end Sys2Proof
end

