-- ==== Sys2Proof/Certificates/Slice0/Obligations.lean ====
section
/-! DEFINITION. The statements for the provers, in the order of the spec's files. A statement about an instruction gives its
bytes, its ticks, its accesses in order, its result and its frame (`Does`); in it PC is already past the instruction's bytes
(R19). The tick table is any table (R337, log entry 12): the ticks a statement names are the defaults of R336, and where the table
lists the opcode, its entry counts. The bus is any bus (R5, log entry 2): what a device answers is not known, and where all
accesses are to memory every byte is given. -/

open Sys2Proof Sys2Proof.Machine

/-! ## State and reset -/

/-- R30: the control state after reset, whatever the parameters `RESET_REGS`, the bus and the tick table are (R337), and the two
presets. -/
def Obligations.ResetStateValues : Prop :=
  (∀ (r : Config.ResetRegs) (bus : BusState) (ticks : Config.TickTable),
    let s := State.resetWith r bus ticks
    s.ime = false ∧ s.runState = .running ∧ s.haltBug = false ∧
    s.breakpoint = none ∧ s.paused = false ∧ s.softBreak = false ∧
    s.a = r.a ∧ s.f = r.f ∧ s.b = r.b ∧ s.c = r.c ∧ s.d = r.d ∧ s.e = r.e ∧ s.h = r.h ∧ s.l = r.l ∧
    s.sp = r.sp ∧ s.pc = r.pc ∧ s.bus = bus ∧ s.ticks = ticks) ∧
  (∀ (bus : BusState) (ticks : Config.TickTable),
    let p := State.resetWith Config.powerOn bus ticks
    p.af = 0x0000 ∧ p.bc = 0x0000 ∧ p.de = 0x0000 ∧ p.hl = 0x0000 ∧ p.sp = 0x0000 ∧ p.pc = 0x0000) ∧
  (∀ (bus : BusState) (ticks : Config.TickTable),
    let d := State.resetWith Config.dmgPostBoot bus ticks
    d.af = 0x01B0 ∧ d.bc = 0x0013 ∧ d.de = 0x00D8 ∧ d.hl = 0x014D ∧ d.sp = 0xFFFE ∧ d.pc = 0x0100)

/-- The invariant holds after every reset whose flag byte meets the constraint of R30, on every bus whose bytes are in their
canonical form; the model's own reset, with the register values and the bus it chose (log entries 2, 3, 4), is one. -/
def Obligations.InvariantAtReset : Prop :=
  (∀ (r : Config.ResetRegs) (bus : BusState) (ticks : Config.TickTable),
    r.f &&& 0x0F = 0 → Memory.wf bus.mem → (State.resetWith r bus ticks).Inv) ∧
  State.reset.Inv

/-- R11, R12, R13, R15: a register or pair reads back what was written, each pair and its halves are one storage, a write of a
pair changes its halves only, a write of AF drops the flag byte's low four bits, and a flag write changes that flag only. -/
def Obligations.RegisterFileReadsBackWrites : Prop :=
  (∀ (s : State) (r q : Reg8) (v : Byte), (s.setReg r v).getReg q = if q = r then v else s.getReg q) ∧
  (∀ (s : State) (p : StackPair) (v : Word), p ≠ .af → (s.setPair p v).getPair p = v) ∧
  (∀ (s : State) (v : Word), (s.setPair .af v).af.toNat = v.toNat / 16 * 16) ∧
  (∀ s : State,
    s.af.toNat = 256 * s.a.toNat + s.f.toNat ∧ s.bc.toNat = 256 * s.b.toNat + s.c.toNat ∧
    s.de.toNat = 256 * s.d.toNat + s.e.toNat ∧ s.hl.toNat = 256 * s.h.toNat + s.l.toNat) ∧
  (∀ (s : State) (v : Byte),
    (s.setReg .b v).bc.toNat = 256 * v.toNat + s.c.toNat ∧ (s.setReg .c v).bc.toNat = 256 * s.b.toNat + v.toNat ∧
    (s.setReg .d v).de.toNat = 256 * v.toNat + s.e.toNat ∧ (s.setReg .e v).de.toNat = 256 * s.d.toNat + v.toNat ∧
    (s.setReg .h v).hl.toNat = 256 * v.toNat + s.l.toNat ∧ (s.setReg .l v).hl.toNat = 256 * s.h.toNat + v.toNat) ∧
  (∀ (s : State) (p : StackPair) (v : Word), SameOutside (stackPairParts p) s (s.setPair p v)) ∧
  (∀ (s : State) (v : Word),
    ((s.setPair .af v).a.toNat = v.toNat / 256 ∧ (s.setPair .af v).f.toNat = v.toNat % 256 / 16 * 16) ∧
    ((s.setPair .bc v).b.toNat = v.toNat / 256 ∧ (s.setPair .bc v).c.toNat = v.toNat % 256) ∧
    ((s.setPair .de v).d.toNat = v.toNat / 256 ∧ (s.setPair .de v).e.toNat = v.toNat % 256) ∧
    ((s.setPair .hl v).h.toNat = v.toNat / 256 ∧ (s.setPair .hl v).l.toNat = v.toNat % 256)) ∧
  (∀ (s : State) (z n h c : Option Bool),
    FlagsBecome s (s.setFlags z n h c) (z.getD s.flagZ) (n.getD s.flagN) (h.getD s.flagH) (c.getD s.flagC) ∧
    SameOutside [.flags] s (s.setFlags z n h c))

/-- R16: an instruction that is not arithmetic, logical, rotate, shift or bit-test, nor `POP AF`, leaves the flag byte as it
was. -/
def Obligations.OnlyListedInstructionsWriteFlags : Prop :=
  ∀ (i : Instr) (s t : State), exec i s = .next t → WritesFlags i = false → t.f = s.f

/-- R22, R23, R24: among all instructions, only `HALT` and `STOP` change `run_state`, only `HALT` changes `halt_bug`, and
only `DI`, `EI` and `RETI` change IME; none changes the debug fields, the environment or the tick table. -/
def Obligations.OnlyListedInstructionsWriteControl : Prop :=
  ∀ (i : Instr) (s t : State), exec i s = .next t →
    (t.runState ≠ s.runState → i = .halt ∨ i = .stop) ∧
    (t.haltBug ≠ s.haltBug → i = .halt) ∧
    (t.ime ≠ s.ime → i = .di ∨ i = .ei ∨ i = .reti) ∧
    SamePart s t .debug ∧ SamePart s t .env ∧ SamePart s t .ticks

/-- R36: whatever the debug fields hold, any number of rounds ends in the same registers, flags, memory, control state,
accesses and clock. -/
def Obligations.DebugNoninterference : Prop :=
  ∀ (k : Nat) (s : State) (bp : Option Word) (p sb : Bool), ∃ t u,
    core.run k s = .next t ∧
    core.run k { s with breakpoint := bp, paused := p, softBreak := sb } = .next u ∧
    State.withoutDebug t = State.withoutDebug u

/-! ## Memory -/

/-- R42, R43: a word access is two byte accesses, the low byte at the address and first, the high byte at the next address
modulo 65536. -/
def Obligations.WordAccessIsLittleEndian : Prop :=
  ∀ (s : State) (addr v : Word),
    let lo := s.readByte addr
    let hi := lo.2.readByte (addr + 1)
    (s.readWord addr).1.toNat = 256 * hi.1.toNat + lo.1.toNat ∧
    Accesses s (s.readWord addr).2 [.read addr lo.1, .read (addr + 1) hi.1] ∧
    SameOutside [.bus] s (s.readWord addr).2 ∧
    Accesses s (s.writeWord addr v) [.write addr (lo8 v), .write (addr + 1) (hi8 v)] ∧
    (lo8 v).toNat = v.toNat % 256 ∧ (hi8 v).toNat = v.toNat / 256 ∧
    StoredWord s (s.writeWord addr v) addr v ∧ SameOutside [.bus] s (s.writeWord addr v)

/-- R58, R55: memory is coherent. A load from memory answers the byte held and changes nothing; a store to memory is what the
next load, and the next opcode fetch, of that address answers. -/
def Obligations.StoreIsSeenByNextFetch : Prop :=
  (∀ (s : State) (addr : Word) (v : Byte), s.onMemory addr = true →
    s.answer addr = s.peek addr ∧ (s.readByte addr).2.bus = s.bus ∧ (s.writeByte addr v).answer addr = v) ∧
  (∀ (s : State) (r : Reg8) (n : Byte), s.hl = s.pc → s.onMemory s.pc = true →
    (∃ t, exec (.ldAtHLR r) s = .next t ∧ t.pc = s.pc ∧ t.fetchOpcode.1 = s.getReg r) ∧
    (∃ t, exec (.ldAtHLN n) s = .next t ∧ t.pc = s.pc ∧ t.fetchOpcode.1 = n))

/-! ## Fetch, decode, encode -/

/-- A step runs the decoded instruction. Let `c` be the state after what the environment does before the round's `step` (R7). On
a running core with no HALT bug armed, when the bytes that the bus answers from PC on decode to `i`, the round is `exec i` on
the state with PC past them, the bus as reading them leaves it, the reads recorded, and `paused` set where a breakpoint or the
soft break asks for it (R70, R300), followed by the host's ticks (R8). -/
def Obligations.StepRunsDecodedInstruction : Prop :=
  ∀ (s : State) (i : Instr) (rest : List Byte),
    let c := s.beginRound
    let addrs : List Word := [c.pc, c.pc + 1, c.pc + 2]
    c.runState = .running → c.haltBug = false →
    decode (c.readBytes addrs).1 = .ok (i, rest) →
    step s = endRound (exec i
      { (c.readBytes (addrs.take (3 - rest.length))).2 with
        pc := c.pc + BitVec.ofNat 16 (3 - rest.length)
        paused := c.paused || c.breakpoint == some c.pc || (c.softBreak && c.answer c.pc == 0x40) })

/-- R72: the opcode fetch reads at PC, and increments PC unless `halt_bug` is armed, which it clears; the fetch of an operand
byte always increments PC and leaves `halt_bug` alone. -/
def Obligations.OpcodeFetchHonoursHaltBug : Prop :=
  ∀ s : State,
    s.fetchOpcode.1 = s.answer s.pc ∧ s.fetchOpcode.2.haltBug = false ∧
    s.fetchOpcode.2.pc.toNat = (if s.haltBug then s.pc.toNat else (s.pc.toNat + 1) % 65536) ∧
    Accesses s s.fetchOpcode.2 [.read s.pc (s.answer s.pc)] ∧
    SameOutside [.pc, .haltBug, .bus] s s.fetchOpcode.2 ∧
    s.fetch8.1 = s.answer s.pc ∧ s.fetch8.2.pc.toNat = (s.pc.toNat + 1) % 65536 ∧
    Accesses s s.fetch8.2 [.read s.pc (s.answer s.pc)] ∧ SameOutside [.pc, .bus] s s.fetch8.2

/-- The HALT bug (R72, R325): the address of the opcode is read twice. The instruction that executes is the one whose bytes are
those answered at PC, at PC again, and at the address after it, which in memory are the opcode twice and the byte after it; and
PC ends one short of where it otherwise would. -/
def Obligations.HaltBugDoublesByte : Prop :=
  ∀ s : State, s.runState = .running → s.haltBug = true →
    let addrs : List Word := [s.pc, s.pc, s.pc + 1]
    (∃ i rest t, decode (s.readBytes addrs).1 = .ok (i, rest) ∧ s.prepare = (some i, t) ∧
      t.pc = s.pc + BitVec.ofNat 16 (2 - rest.length) ∧ t.haltBug = false ∧
      t.bus = (s.readBytes (addrs.take (3 - rest.length))).2.bus ∧
      t.trace = (s.readBytes (addrs.take (3 - rest.length))).2.trace ∧
      SameOutside [.pc, .haltBug, .debug, .bus] s t) ∧
    (s.onMemory s.pc = true → s.onMemory (s.pc + 1) = true →
      (s.readBytes addrs).1 = [s.peek s.pc, s.peek s.pc, s.peek (s.pc + 1)])

/-- R70 step 1, R296: a halted core returns 4 ticks, makes no access and changes nothing. -/
def Obligations.HaltedStepIsIdle : Prop :=
  ∀ s : State, s.runState = .halted →
    ∃ t, cpuStep s = .next t ∧ t.cycles = 4 ∧ t.trace = s.trace ∧ SameOutside [] s t

/-- The decoder gives back every well-formed instruction from its encoding, whatever bytes follow. -/
def Obligations.DecodeOfEncode : Prop :=
  ∀ (i : Instr) (rest : List Byte), WellFormed i = true → decode (encode i ++ rest) = .ok (i, rest)

/-- Every byte sequence that decodes is the encoding of the one well-formed instruction it decodes to; and every three bytes
decode. -/
def Obligations.EncodeOfDecode : Prop :=
  (∀ (bytes rest : List Byte) (i : Instr), decode bytes = .ok (i, rest) →
    WellFormed i = true ∧ bytes = encode i ++ rest) ∧
  (∀ op n1 n2 : Byte, ∃ i rest, decode [op, n1, n2] = .ok (i, rest))

/-- A few words of the two opcode maps (R71, R81, R82), written out. -/
def Obligations.WordsDecodeAsListed : Prop :=
  decode [0x40] = .ok (.ldRR .b .b, []) ∧
  decode [0x76] = .ok (.halt, []) ∧
  decode [0xD3] = .ok (.illegal 0xD3, []) ∧
  decode [0xCB, 0x37] = .ok (.swapR .a, []) ∧
  decode [0xCB, 0x7C] = .ok (.bitR 7 .h, []) ∧
  decode [0xAF] = .ok (.xorR .a, []) ∧
  decode [0x21, 0x5B, 0x3A] = .ok (.ldPairNN .hl 0x3A5B, []) ∧
  decode [0x38, 0x10] = .ok (.jrCond .c 0x10, []) ∧
  decode [0xC4, 0x34, 0x12] = .ok (.callCond .nz 0x1234, []) ∧
  decode [0xEF] = .ok (.rst 5, []) ∧
  decode [0xF0, 0x34] = .ok (.ldhAAtN 0x34, [])

/-! ## 8-bit arithmetic and logic -/

/-- R101, R106 to R108, R110 to R112: `ADD` and `ADC` in their three operand forms. -/
def Obligations.AddAdcResult : Prop :=
  let adds (s : State) (cin : Nat) (bytes : List Byte) (i : Instr) (v : Byte) (events : List Event) (ticks : Byte) : Prop :=
    Does s bytes i ticks events [.reg .a, .flags] fun t =>
      t.a.toNat = (s.a.toNat + v.toNat + cin) % 256 ∧
      FlagsBecome s t (decide ((s.a.toNat + v.toNat + cin) % 256 = 0)) false
        (decide (s.a.toNat % 16 + v.toNat % 16 + cin > 15)) (decide (s.a.toNat + v.toNat + cin > 255))
  ∀ s : State,
    ForEachOperand s .addR .addAtHL .addN 0x80 0xC6 (adds s 0) ∧
    ForEachOperand s .adcR .adcAtHL .adcN 0x88 0xCE (adds s s.flagC.toNat)

/-- R102, R113 to R118: `SUB` and `SBC` in their three operand forms. -/
def Obligations.SubSbcResult : Prop :=
  let subs (s : State) (cin : Nat) (bytes : List Byte) (i : Instr) (v : Byte) (events : List Event) (ticks : Byte) : Prop :=
    Does s bytes i ticks events [.reg .a, .flags] fun t =>
      (t.a.toNat : Int) = ((s.a.toNat : Int) - v.toNat - cin) % 256 ∧
      FlagsBecome s t (decide (((s.a.toNat : Int) - v.toNat - cin) % 256 = 0)) true
        (decide (s.a.toNat % 16 < v.toNat % 16 + cin)) (decide (s.a.toNat < v.toNat + cin))
  ∀ s : State,
    ForEachOperand s .subR .subAtHL .subN 0x90 0xD6 (subs s 0) ∧
    ForEachOperand s .sbcR .sbcAtHL .sbcN 0x98 0xDE (subs s s.flagC.toNat)

/-- R128, R129, R130: `CP` sets the flags of a subtraction and leaves A; Z says A equals the operand, C that A is less. -/
def Obligations.CompareSetsFlagsOnly : Prop :=
  ∀ s : State, ForEachOperand s .cpR .cpAtHL .cpN 0xB8 0xFE fun bytes i v events ticks =>
    Does s bytes i ticks events [.flags] fun t =>
      FlagsBecome s t (decide (s.a = v)) true (decide (s.a.toNat % 16 < v.toNat % 16)) (decide (s.a.toNat < v.toNat))

/-- R103, R119 to R127: `AND`, `XOR` and `OR` in their three operand forms, bit by bit. -/
def Obligations.LogicResult : Prop :=
  let combines (s : State) (f : Bool → Bool → Bool) (hFlag : Bool) (bytes : List Byte) (i : Instr) (v : Byte)
      (events : List Event) (ticks : Byte) : Prop :=
    Does s bytes i ticks events [.reg .a, .flags] fun t =>
      (∀ j < 8, t.a.getLsbD j = f (s.a.getLsbD j) (v.getLsbD j)) ∧
      FlagsBecome s t (decide (t.a = 0)) false hFlag false
  ∀ s : State,
    ForEachOperand s .andR .andAtHL .andN 0xA0 0xE6 (combines s and true) ∧
    ForEachOperand s .xorR .xorAtHL .xorN 0xA8 0xEE (combines s xor false) ∧
    ForEachOperand s .orR .orAtHL .orN 0xB0 0xF6 (combines s or false)

/-- R104, R105, R131 to R134: 8-bit `INC` and `DEC`, on a register and on the byte at HL; C is unchanged. -/
def Obligations.IncDecByteResult : Prop :=
  ∀ s : State,
    let m := s.answer s.hl
    let incd (v : Byte) : Byte := BitVec.ofNat 8 (v.toNat + 1)
    let decd (v : Byte) : Byte := BitVec.ofNat 8 (v.toNat + 255)
    let incFlags (t : State) (v : Byte) : Prop :=
      FlagsBecome s t (decide (v.toNat = 255)) false (decide (v.toNat % 16 = 15)) s.flagC
    let decFlags (t : State) (v : Byte) : Prop :=
      FlagsBecome s t (decide (v.toNat = 1)) true (decide (v.toNat % 16 = 0)) s.flagC
    (∀ r, Does s [0x04 + 8 * regIndex r] (.incR r) 4 [] [.reg r, .flags] fun t =>
      t.getReg r = incd (s.getReg r) ∧ incFlags t (s.getReg r)) ∧
    (Does s [0x34] .incAtHL 12 [.read s.hl m, .write s.hl (incd m)] [.flags] fun t =>
      Stored s t s.hl (incd m) ∧ incFlags t m) ∧
    (∀ r, Does s [0x05 + 8 * regIndex r] (.decR r) 4 [] [.reg r, .flags] fun t =>
      t.getReg r = decd (s.getReg r) ∧ decFlags t (s.getReg r)) ∧
    (Does s [0x35] .decAtHL 12 [.read s.hl m, .write s.hl (decd m)] [.flags] fun t =>
      Stored s t s.hl (decd m) ∧ decFlags t m)

/-- R135: `DAA`. -/
def Obligations.DaaResult : Prop :=
  ∀ s : State,
    let low : Bool := s.flagH || (!s.flagN && decide (s.a.toNat % 16 > 9))
    let high : Bool := s.flagC || (!s.flagN && decide (s.a.toNat > 0x99))
    let corr : Nat := 6 * low.toNat + 96 * high.toNat
    Does s [0x27] .daa 4 [] [.reg .a, .flags] fun t =>
      t.a.toNat = (if s.flagN then s.a.toNat + 256 - corr else s.a.toNat + corr) % 256 ∧
      FlagsBecome s t (decide (t.a = 0)) s.flagN false (decide (corr ≥ 96))

/-- `DAA` does what it is for (R135, R101, R102): after an `ADD` or a `SUB` of two-digit decimal numbers it leaves the two
digits of the sum or difference modulo 100 in A, and the decimal carry or borrow in C. -/
def Obligations.DaaAfterAddOrSub : Prop :=
  ∀ (s : State) (x y : Nat) (n : Byte), x < 100 → y < 100 →
    s.a.toNat = x / 10 * 16 + x % 10 → n.toNat = y / 10 * 16 + y % 10 →
    (∃ t u, exec (.addN n) s = .next t ∧ exec .daa t = .next u ∧
      u.a.toNat = (x + y) % 100 / 10 * 16 + (x + y) % 10 ∧ u.flagC = decide (x + y ≥ 100)) ∧
    (∃ t u, exec (.subN n) s = .next t ∧ exec .daa t = .next u ∧
      u.a.toNat = (x + 100 - y) % 100 / 10 * 16 + (x + 100 - y) % 10 ∧ u.flagC = decide (x < y))

/-- R136, R137, R138: `CPL`, `SCF`, `CCF`. -/
def Obligations.CplScfCcfResult : Prop :=
  ∀ s : State,
    (Does s [0x2F] .cpl 4 [] [.reg .a, .flags] fun t =>
      t.a.toNat = 255 - s.a.toNat ∧ FlagsBecome s t s.flagZ true true s.flagC) ∧
    (Does s [0x37] .scf 4 [] [.flags] fun t => FlagsBecome s t s.flagZ false false true) ∧
    (Does s [0x3F] .ccf 4 [] [.flags] fun t => FlagsBecome s t s.flagZ false false (!s.flagC))

/-! ## 16-bit arithmetic -/

/-- R150, R152: `ADD HL,rr`. -/
def Obligations.AddHLResult : Prop :=
  ∀ (s : State) (p : RegPair),
    Does s [0x09 + 16 * pairIndex p] (.addHLPair p) 8 [] [.reg .h, .reg .l, .flags] fun t =>
      t.hl.toNat = (s.hl.toNat + (s.getRP p).toNat) % 65536 ∧
      FlagsBecome s t s.flagZ false (decide (s.hl.toNat % 4096 + (s.getRP p).toNat % 4096 > 4095))
        (decide (s.hl.toNat + (s.getRP p).toNat > 65535))

/-- R151, R153, R233: `ADD SP,e` and `LD HL,SP+e`: the signed offset in the result, the unsigned low-byte sum in H and C. -/
def Obligations.SpOffsetResult : Prop :=
  ∀ (s : State) (e : Byte),
    let res : Int := ((s.sp.toNat : Int) + e.toInt) % 65536
    let flags (t : State) : Prop :=
      FlagsBecome s t false false (decide (s.sp.toNat % 16 + e.toNat % 16 > 15))
        (decide (s.sp.toNat % 256 + e.toNat > 255))
    (Does s [0xE8, e] (.addSPE e) 16 [] [.sp, .flags] fun t => (t.sp.toNat : Int) = res ∧ flags t) ∧
    (Does s [0xF8, e] (.ldHLSPE e) 12 [] [.reg .h, .reg .l, .flags] fun t => (t.hl.toNat : Int) = res ∧ flags t)

/-- R154, R155: 16-bit `INC` and `DEC`; no flag changes. -/
def Obligations.IncDecPairResult : Prop :=
  ∀ (s : State) (p : RegPair),
    (Does s [0x03 + 16 * pairIndex p] (.incPair p) 8 [] (pairParts p) fun t =>
      (t.getRP p).toNat = ((s.getRP p).toNat + 1) % 65536) ∧
    (Does s [0x0B + 16 * pairIndex p] (.decPair p) 8 [] (pairParts p) fun t =>
      (t.getRP p).toNat = ((s.getRP p).toNat + 65535) % 65536)

/-! ## Rotates, shifts and bits -/

/-- R160 to R163: the accumulator rotates; Z is 0 always. -/
def Obligations.AccumulatorRotateResult : Prop :=
  ∀ s : State,
    let rotates (op : Byte) (i : Instr) (res : Nat) (carry : Bool) : Prop :=
      Does s [op] i 4 [] [.reg .a, .flags] fun t => t.a.toNat = res % 256 ∧ FlagsBecome s t false false false carry
    let top : Bool := decide (s.a.toNat ≥ 128)
    let low : Bool := decide (s.a.toNat % 2 = 1)
    rotates 0x07 .rlca (2 * s.a.toNat + top.toNat) top ∧
    rotates 0x0F .rrca (s.a.toNat / 2 + 128 * low.toNat) low ∧
    rotates 0x17 .rla (2 * s.a.toNat + s.flagC.toNat) top ∧
    rotates 0x1F .rra (s.a.toNat / 2 + 128 * s.flagC.toNat) low

/-- R172 to R179: `RLC`, `RRC`, `RL`, `RR` on a register and on the byte at HL. -/
def Obligations.RotateResult : Prop :=
  ∀ s : State,
    let flags (f : Byte → Byte) (carry : Byte → Bool) (t : State) (v : Byte) : Prop :=
      FlagsBecome s t (decide (f v = 0)) false false (carry v)
    let top (v : Byte) : Bool := decide (v.toNat ≥ 128)
    let low (v : Byte) : Bool := decide (v.toNat % 2 = 1)
    let rlc (v : Byte) : Byte := v.rotateLeft 1
    let rrc (v : Byte) : Byte := v.rotateRight 1
    let rl (v : Byte) : Byte := BitVec.ofNat 8 (2 * v.toNat + s.flagC.toNat)
    let rr (v : Byte) : Byte := BitVec.ofNat 8 (v.toNat / 2 + 128 * s.flagC.toNat)
    ForEachTarget s .rlcR .rlcAtHL 0x00 [.flags] rlc (flags rlc top) ∧
    ForEachTarget s .rrcR .rrcAtHL 0x08 [.flags] rrc (flags rrc low) ∧
    ForEachTarget s .rlR .rlAtHL 0x10 [.flags] rl (flags rl top) ∧
    ForEachTarget s .rrR .rrAtHL 0x18 [.flags] rr (flags rr low)

/-- R180 to R187: `SLA`, `SRA`, `SWAP`, `SRL` on a register and on the byte at HL. -/
def Obligations.ShiftSwapResult : Prop :=
  ∀ s : State,
    let flags (f : Byte → Byte) (carry : Byte → Bool) (t : State) (v : Byte) : Prop :=
      FlagsBecome s t (decide (f v = 0)) false false (carry v)
    let top (v : Byte) : Bool := decide (v.toNat ≥ 128)
    let low (v : Byte) : Bool := decide (v.toNat % 2 = 1)
    let none (_ : Byte) : Bool := false
    let sla (v : Byte) : Byte := BitVec.ofNat 8 (2 * v.toNat)
    let sra (v : Byte) : Byte := v.sshiftRight 1
    let swap (v : Byte) : Byte := BitVec.ofNat 8 (v.toNat % 16 * 16 + v.toNat / 16)
    let srl (v : Byte) : Byte := BitVec.ofNat 8 (v.toNat / 2)
    ForEachTarget s .slaR .slaAtHL 0x20 [.flags] sla (flags sla top) ∧
    ForEachTarget s .sraR .sraAtHL 0x28 [.flags] sra (flags sra low) ∧
    ForEachTarget s .swapR .swapAtHL 0x30 [.flags] swap (flags swap none) ∧
    ForEachTarget s .srlR .srlAtHL 0x38 [.flags] srl (flags srl low)

/-- An accumulator rotate and the secondary-table rotate of A of the same name differ only in Z and in ticks (the source's
"differ from CB rotates only in Z handling", 42_rotate_a.md). -/
def Obligations.RotatesDifferOnlyInZ : Prop :=
  ∀ (s : State) (i j : Instr), (i, j) ∈ [(Instr.rlca, Instr.rlcR .a), (.rrca, .rrcR .a), (.rla, .rlR .a), (.rra, .rrR .a)] →
    ∃ t u, exec i s = .next t ∧ exec j s = .next u ∧
      t.flagZ = false ∧ u.flagZ = decide (u.a = 0) ∧
      t = { u with f := t.f, cycles := t.cycles } ∧ t.f = u.f &&& 0x7F ∧
      t.cycles = s.ticksAt (encode i) true 4 ∧ u.cycles = s.ticksAt (encode j) true 8

/-- R188, R189: `BIT b` sets Z to the complement of the bit and leaves C, the operand and memory alone. -/
def Obligations.BitTestResult : Prop :=
  ∀ (s : State) (b : BitVec 3),
    let flags (t : State) (v : Byte) : Prop :=
      FlagsBecome s t (decide (v.toNat / 2 ^ b.toNat % 2 = 0)) false true s.flagC
    (∀ r, Does s [0xCB, 0x40 + 8 * bitIndex b + regIndex r] (.bitR b r) 8 [] [.flags] fun t => flags t (s.getReg r)) ∧
    (Does s [0xCB, 0x46 + 8 * bitIndex b] (.bitAtHL b) 12 [.read s.hl (s.answer s.hl)] [.flags] fun t =>
      flags t (s.answer s.hl))

/-- R190 to R193: `RES b` and `SET b` change the named bit of the operand and nothing else. -/
def Obligations.ResSetResult : Prop :=
  ∀ (s : State) (b : BitVec 3),
    let bit (v : Byte) : Nat := v.toNat / 2 ^ b.toNat % 2
    let cleared (v : Byte) : Byte := BitVec.ofNat 8 (v.toNat - bit v * 2 ^ b.toNat)
    let filled (v : Byte) : Byte := BitVec.ofNat 8 (v.toNat + (1 - bit v) * 2 ^ b.toNat)
    ForEachTarget s (.resR b) (.resAtHL b) (0x80 + 8 * bitIndex b) [] cleared (fun _ _ => True) ∧
    ForEachTarget s (.setR b) (.setAtHL b) (0xC0 + 8 * bitIndex b) [] filled (fun _ _ => True)

/-- R271: the byte after `0xCB` selects an entry of the secondary table, which executes; every byte is one; a second `0xCB`
is an entry like another; and on a running core the second byte is fetched with PC always advanced past it. -/
def Obligations.PrefixSelectsSecondaryEntry : Prop :=
  (∀ (s : State) (cb : Byte), ∃ i t,
    DecodesTo [0xCB, cb] i ∧ exec i s = .next t ∧ exec (.prefixCB cb) s = .next t ∧
      ∃ n ∈ ([8, 12, 16] : List Byte), t.cycles = s.ticksAt [0xCB, cb] true n) ∧
  DecodesTo [0xCB, 0xCB] (.setR 1 .e) ∧
  (∀ s : State, s.runState = .running → s.answer s.pc = 0xCB →
    let next : Word := if s.haltBug then s.pc else s.pc + 1
    let cb := (s.readByte s.pc).2.answer next
    ∃ i t, s.prepare = (some i, t) ∧ DecodesTo [0xCB, cb] i ∧ t.pc = next + 1 ∧
      Accesses s t [.read s.pc 0xCB, .read next cb] ∧ SameOutside [.pc, .haltBug, .debug, .bus] s t)

/-! ## 8-bit loads -/

/-- R200, R201, R202: the loads of a register; `LD B,B` pauses the core when the soft break is on. -/
def Obligations.LoadRegisterResult : Prop :=
  ∀ s : State,
    (∀ dst src, Does s [0x40 + 8 * regIndex dst + regIndex src] (.ldRR dst src) 4 [] [.reg dst] fun t =>
      t.getReg dst = s.getReg src) ∧
    (s.runState = .running → s.softBreak = true → s.answer s.pc = 0x40 → s.prepare.2.paused = true) ∧
    (∀ r n, Does s [0x06 + 8 * regIndex r, n] (.ldRN r n) 8 [] [.reg r] fun t => t.getReg r = n) ∧
    (∀ r, Does s [0x46 + 8 * regIndex r] (.ldRAtHL r) 8 [.read s.hl (s.answer s.hl)] [.reg r] fun t =>
      t.getReg r = s.answer s.hl)

/-- R203, R204: the stores at HL. -/
def Obligations.StoreAtHLResult : Prop :=
  ∀ s : State,
    (∀ r, Does s [0x70 + regIndex r] (.ldAtHLR r) 8 [.write s.hl (s.getReg r)] [] fun t => Stored s t s.hl (s.getReg r)) ∧
    (∀ n, Does s [0x36, n] (.ldAtHLN n) 12 [.write s.hl n] [] fun t => Stored s t s.hl n)

/-- R205, R206, R209, R211, R213: the loads of A. -/
def Obligations.LoadAResult : Prop :=
  ∀ s : State,
    let loads (bytes : List Byte) (i : Instr) (ticks : Byte) (addr : Word) : Prop :=
      Does s bytes i ticks [.read addr (s.answer addr)] [.reg .a] fun t => t.a = s.answer addr
    loads [0x0A] .ldAAtBC 8 s.bc ∧ loads [0x1A] .ldAAtDE 8 s.de ∧
    (∀ lo hi : Byte, loads [0xFA, lo, hi] (.ldAAtNN (joinBytes hi lo)) 16 (joinBytes hi lo)) ∧
    loads [0xF2] .ldhAAtC 8 (BitVec.ofNat 16 (0xFF00 + s.c.toNat)) ∧
    (∀ n : Byte, loads [0xF0, n] (.ldhAAtN n) 12 (BitVec.ofNat 16 (0xFF00 + n.toNat)))

/-- R207, R208, R210, R212, R214: the stores of A. -/
def Obligations.StoreAResult : Prop :=
  ∀ s : State,
    let stores (bytes : List Byte) (i : Instr) (ticks : Byte) (addr : Word) : Prop :=
      Does s bytes i ticks [.write addr s.a] [] fun t => Stored s t addr s.a
    stores [0x02] .ldAtBCA 8 s.bc ∧ stores [0x12] .ldAtDEA 8 s.de ∧
    (∀ lo hi : Byte, stores [0xEA, lo, hi] (.ldAtNNA (joinBytes hi lo)) 16 (joinBytes hi lo)) ∧
    stores [0xE2] .ldhAtCA 8 (BitVec.ofNat 16 (0xFF00 + s.c.toNat)) ∧
    (∀ n : Byte, stores [0xE0, n] (.ldhAtNA n) 12 (BitVec.ofNat 16 (0xFF00 + n.toNat)))

/-- R215 to R218: the loads and stores of A at HL that move HL by one, modulo 65536. -/
def Obligations.LoadStoreMovesHL : Prop :=
  ∀ s : State,
    let loads (bytes : List Byte) (i : Instr) (delta : Nat) : Prop :=
      Does s bytes i 8 [.read s.hl (s.answer s.hl)] [.reg .a, .reg .h, .reg .l] fun t =>
        t.a = s.answer s.hl ∧ t.hl.toNat = (s.hl.toNat + delta) % 65536
    let stores (bytes : List Byte) (i : Instr) (delta : Nat) : Prop :=
      Does s bytes i 8 [.write s.hl s.a] [.reg .h, .reg .l] fun t =>
        Stored s t s.hl s.a ∧ t.hl.toNat = (s.hl.toNat + delta) % 65536
    loads [0x2A] .ldAAtHLInc 1 ∧ loads [0x3A] .ldAAtHLDec 65535 ∧
    stores [0x22] .ldAtHLIncA 1 ∧ stores [0x32] .ldAtHLDecA 65535

/-! ## 16-bit loads and the stack -/

/-- R232, R234: `LD rr,nn`, the low byte first in the instruction, and `LD SP,HL`. -/
def Obligations.LoadPairResult : Prop :=
  ∀ s : State,
    (∀ (p : RegPair) (lo hi : Byte),
      Does s [0x01 + 16 * pairIndex p, lo, hi] (.ldPairNN p (joinBytes hi lo)) 12 [] (pairParts p) fun t =>
        (t.getRP p).toNat = 256 * hi.toNat + lo.toNat) ∧
    (Does s [0xF9] .ldSPHL 8 [] [.sp] fun t => t.sp.toNat = 256 * s.h.toNat + s.l.toNat)

/-- R235: `LD (nn),SP`. -/
def Obligations.StoreSPResult : Prop :=
  ∀ (s : State) (lo hi : Byte),
    let nn := joinBytes hi lo
    Does s [0x08, lo, hi] (.ldAtNNSP nn) 20 [.write nn (lo8 s.sp), .write (nn + 1) (hi8 s.sp)] [] fun t =>
      StoredWord s t nn s.sp

/-- R230, R236: `PUSH`. With the invariant's flag byte (R13) the byte written for F has a zero low nibble. -/
def Obligations.PushResult : Prop :=
  ∀ (s : State) (p : StackPair),
    let v := s.getPair p
    let sp := s.sp - 2
    Does s [0xC5 + 16 * stackPairIndex p] (.pushPair p) 16 [.write sp (lo8 v), .write (sp + 1) (hi8 v)] [.sp] fun t =>
      t.sp.toNat = (s.sp.toNat + 65534) % 65536 ∧ StoredWord s t sp v ∧
      (p = .af → s.f &&& 0x0F = 0 → (lo8 v).toNat % 16 = 0)

/-- R237, R238: `POP`; `POP AF` drops the low nibble of the byte it takes for F. -/
def Obligations.PopResult : Prop :=
  ∀ s : State,
    let lo := s.answer s.sp
    let hi := (s.readByte s.sp).2.answer (s.sp + 1)
    let events : List Event := [.read s.sp lo, .read (s.sp + 1) hi]
    (Does s [0xF1] .popAF 12 events [.reg .a, .flags, .sp] fun t =>
      t.a = hi ∧ t.f.toNat = lo.toNat / 16 * 16 ∧ t.sp.toNat = (s.sp.toNat + 2) % 65536) ∧
    (∀ p : StackPair, p ≠ .af →
      Does s [0xC1 + 16 * stackPairIndex p] (.popPair p) 12 events (.sp :: stackPairParts p) fun t =>
        (t.getPair p).toNat = 256 * hi.toNat + lo.toNat ∧ t.sp.toNat = (s.sp.toNat + 2) % 65536)

/-- R231: `pop_word`, and its law: popping what was pushed gives back the value and SP, for every value and every SP whose two
bytes are plain memory, as the rule says; so does a `POP` after a `PUSH`. -/
def Obligations.PopRestoresPush : Prop :=
  (∀ s : State,
    let lo := s.answer s.sp
    let hi := (s.readByte s.sp).2.answer (s.sp + 1)
    s.popWord.1.toNat = 256 * hi.toNat + lo.toNat ∧
    s.popWord.2.sp.toNat = (s.sp.toNat + 2) % 65536 ∧
    Accesses s s.popWord.2 [.read s.sp lo, .read (s.sp + 1) hi] ∧
    SameOutside [.sp, .bus] s s.popWord.2) ∧
  (∀ (s : State) (v : Word), s.onMemory (s.sp - 2) = true → s.onMemory (s.sp - 2 + 1) = true →
    (s.pushWord v).popWord.1 = v ∧ (s.pushWord v).popWord.2.sp = s.sp) ∧
  (∀ (s : State) (p q : StackPair), q ≠ .af → s.onMemory (s.sp - 2) = true → s.onMemory (s.sp - 2 + 1) = true →
    ∃ t u, exec (.pushPair p) s = .next t ∧ exec (.popPair q) t = .next u ∧
      u.getPair q = s.getPair p ∧ u.sp = s.sp ∧ SameOutside (.bus :: stackPairParts q) s u)

/-! ## Jumps, calls, returns -/

/-- R246, R248, R249: the unconditional jumps. -/
def Obligations.JumpResult : Prop :=
  ∀ s : State,
    (∀ lo hi : Byte, Does s [0xC3, lo, hi] (.jpNN (joinBytes hi lo)) 16 [] [.pc] fun t =>
      t.pc.toNat = 256 * hi.toNat + lo.toNat) ∧
    (Does s [0xE9] .jpHL 4 [] [.pc] fun t => t.pc.toNat = 256 * s.h.toNat + s.l.toNat) ∧
    (∀ e : Byte, Does s [0x18, e] (.jrE e) 12 [] [.pc] fun t =>
      (t.pc.toNat : Int) = ((s.pc.toNat : Int) + e.toInt) % 65536)

/-- R247, R250, R253, R255: the conditional jumps, calls and returns, taken and not taken; of the opcode's two tick constants
the one of the case (R337). -/
def Obligations.ConditionalTransferResult : Prop :=
  ∀ (s : State) (cc : Cond),
    let taken : Bool := condHolds s.f cc
    let sp := s.sp - 2
    let popLo := s.answer s.sp
    let popHi := (s.readByte s.sp).2.answer (s.sp + 1)
    let ticks (bytes : List Byte) (t n : Byte) : Byte := s.ticksAt bytes taken (if taken then t else n)
    let jp : Byte := 0xC2 + 8 * condIndex cc
    let jr : Byte := 0x20 + 8 * condIndex cc
    let call : Byte := 0xC4 + 8 * condIndex cc
    let ret : Byte := 0xC0 + 8 * condIndex cc
    (∀ lo hi : Byte, DoesIn s [jp, lo, hi] (.jpCond cc (joinBytes hi lo)) (ticks [jp] 16 12) [] [.pc] fun t =>
      t.pc = if taken then joinBytes hi lo else s.pc) ∧
    (∀ e : Byte, DoesIn s [jr, e] (.jrCond cc e) (ticks [jr] 12 8) [] [.pc] fun t =>
      (t.pc.toNat : Int) = if taken then ((s.pc.toNat : Int) + e.toInt) % 65536 else s.pc.toNat) ∧
    (∀ lo hi : Byte, DoesIn s [call, lo, hi] (.callCond cc (joinBytes hi lo)) (ticks [call] 24 12)
      (if taken then [.write sp (lo8 s.pc), .write (sp + 1) (hi8 s.pc)] else []) [.pc, .sp] fun t =>
        if taken then t.pc = joinBytes hi lo ∧ t.sp = sp ∧ StoredWord s t sp s.pc
        else t.pc = s.pc ∧ t.sp = s.sp) ∧
    (DoesIn s [ret] (.retCond cc) (ticks [ret] 20 8)
      (if taken then [.read s.sp popLo, .read (s.sp + 1) popHi] else []) [.pc, .sp] fun t =>
        if taken then t.pc = joinBytes popHi popLo ∧ t.sp = s.sp + 2
        else t.pc = s.pc ∧ t.sp = s.sp)

/-- R252, R257: `CALL` and `RST` push PC, which is the address after the instruction, and go to the target. -/
def Obligations.CallRstResult : Prop :=
  ∀ s : State,
    let sp := s.sp - 2
    let calls (bytes : List Byte) (i : Instr) (ticks : Byte) (target : Nat) : Prop :=
      Does s bytes i ticks [.write sp (lo8 s.pc), .write (sp + 1) (hi8 s.pc)] [.pc, .sp] fun t =>
        t.pc.toNat = target ∧ t.sp = sp ∧ StoredWord s t sp s.pc
    (∀ lo hi : Byte, calls [0xCD, lo, hi] (.callNN (joinBytes hi lo)) 24 (256 * hi.toNat + lo.toNat)) ∧
    (∀ y : BitVec 3, calls [0xC7 + 8 * bitIndex y] (.rst y) 16 (8 * y.toNat))

/-- R254, R270: `RET`, and `RETI`, which also sets IME. -/
def Obligations.ReturnResult : Prop :=
  ∀ s : State,
    let lo := s.answer s.sp
    let hi := (s.readByte s.sp).2.answer (s.sp + 1)
    let events : List Event := [.read s.sp lo, .read (s.sp + 1) hi]
    let returns (t : State) : Prop :=
      t.pc.toNat = 256 * hi.toNat + lo.toNat ∧ t.sp.toNat = (s.sp.toNat + 2) % 65536
    (Does s [0xC9] .ret 16 events [.pc, .sp] returns) ∧
    (Does s [0xD9] .reti 16 events [.pc, .sp, .ime] fun t => returns t ∧ t.ime = true)

/-! ## System instructions -/

/-- R265, R267, R268, R269, R272: `NOP`, `STOP`, `DI`, `EI` and the illegal opcodes, whose 0 ticks no table changes. -/
def Obligations.SystemInstructionResult : Prop :=
  ∀ s : State,
    (Does s [0x00] .nop 4 [] [] fun _ => True) ∧
    (Does s [0x10] .stop 4 [] [.runState] fun t => t.runState = .halted ∧ t.halted = true) ∧
    (Does s [0xF3] .di 4 [] [.ime] fun t => t.ime = false) ∧
    (Does s [0xFB] .ei 4 [] [.ime] fun t => t.ime = true) ∧
    (∀ op ∈ ([0xD3, 0xDB, 0xDD, 0xE3, 0xE4, 0xEB, 0xEC, 0xED, 0xF4, 0xFC, 0xFD] : List Byte),
      DoesIn s [op] (.illegal op) 0 [.logIllegal op] [] fun _ => True)

/-- R266: `HALT` halts, unless IME is off and a source is both enabled and requested: then it does not halt and arms
`halt_bug`. Only the five used bits of IE and IF count; that the bus holds them as bytes at 0xFFFF and 0xFF0F (R52) is the
model's choice (log entry 2). -/
def Obligations.HaltResult : Prop :=
  ∀ s : State,
    let pending : Bool := (s.peek 0xFFFF &&& s.peek 0xFF0F &&& 0x1F) != 0
    if s.ime = false ∧ pending = true then Does s [0x76] .halt 4 [] [.haltBug] fun t => t.haltBug = true
    else Does s [0x76] .halt 4 [] [.runState] fun t => t.runState = .halted

/-! ## Interrupts -/

/-- R26, R283, R285, R286: the dispatcher. With IME off or nothing pending it does no more than wake a halted core; otherwise
it clears IME, acknowledges the pending source of lowest bit, pushes PC, and goes to that source's vector. The acknowledge clears
that bit of IF and nothing else (R5). That the bus holds IE and IF as bytes at 0xFFFF and 0xFF0F (R52) is the model's choice
(log entry 2). -/
def Obligations.DispatcherServicesHighestPending : Prop :=
  ∀ s : State,
    let m : Byte := s.peek 0xFFFF &&& s.peek 0xFF0F &&& 0x1F
    let sp := s.sp - 2
    (if s.ime = false ∨ m = 0 then
      s.handleInterrupt = (false, { s with runState := if m = 0 then s.runState else .running })
    else
      ∃ (i : Nat) (t : State), s.handleInterrupt = (true, t) ∧
        i < 5 ∧ m.getLsbD i = true ∧ (∀ j < i, m.getLsbD j = false) ∧
        t.ime = false ∧ t.runState = .running ∧ t.pc.toNat = 0x0040 + 8 * i ∧ t.sp = sp ∧ t.cycles = s.cycles ∧
        Accesses s t [.ack (BitVec.ofNat 5 (2 ^ i)), .write sp (lo8 s.pc), .write (sp + 1) (hi8 s.pc)] ∧
        StoredWord s t sp s.pc ∧ SameOutside [.pc, .sp, .ime, .runState, .bus] s t) ∧
    (∀ mask : BitVec 5,
      (s.ackInterrupt mask).interruptFlag = s.interruptFlag &&& ~~~mask ∧
      (s.ackInterrupt mask).interruptEnable = s.interruptEnable ∧
      (∀ x : Word, x ≠ 0xFF0F → (s.ackInterrupt mask).peek x = s.peek x) ∧ SameOutside [.bus] s (s.ackInterrupt mask))

/-- R290: with IME off, a halted core wakes when a source is enabled and requested, and otherwise stays halted; nothing else
changes, and the request is not acknowledged. That the bus holds IE and IF as bytes at 0xFFFF and 0xFF0F (R52) is the model's
choice (log entry 2). -/
def Obligations.WakeWithoutService : Prop :=
  ∀ s : State, s.runState = .halted →
    ((s.peek 0xFFFF &&& s.peek 0xFF0F &&& 0x1F) ≠ 0 → s.ime = false →
      s.handleInterrupt = (false, { s with runState := .running })) ∧
    ((s.peek 0xFFFF &&& s.peek 0xFF0F &&& 0x1F) = 0 → s.handleInterrupt = (false, s))

/-- R288: `RETI` right after interrupt entry, with the stack in memory, restores PC and SP and sets IME, and the registers and
flags are as they were before the entry. -/
def Obligations.RetiUndoesEntry : Prop :=
  ∀ s t : State, s.handleInterrupt = (true, t) → s.onMemory (s.sp - 2) = true → s.onMemory (s.sp - 2 + 1) = true →
    ∃ u, exec .reti t = .next u ∧ u.pc = s.pc ∧ u.sp = s.sp ∧ u.ime = true ∧ SameOutside [.runState, .bus] s u

/-- The host's loop when the environment does nothing (R8, R284, R335): the whole of the `n + 1` calls after a `step` amounts
to the first of them, and the clock advances by `n + 1`, and by 20 more if that call serviced. -/
def Obligations.QuietRoundIsOneDispatch : Prop :=
  ∀ (s : State) (n : Nat), s.inputs = [] →
    s.hostTicks (n + 1) =
      { s.handleInterrupt.2 with clock := s.clock + (n + 1) + if s.handleInterrupt.1 then 20 else 0 }

/-- Interrupt latency (R328): a request that comes up at tick `k + 1` of the `n` ticks after a `step`, with IME on, its source
enabled and nothing pending before, is serviced at that same tick, before the next instruction; the clock advances by the
round's ticks and 20 more. -/
def Obligations.InterruptServicedAtRequestTick : Prop :=
  ∀ (s : State) (src : Source) (k n : Nat), k < n → s.ime = true →
    s.interruptEnable &&& s.interruptFlag = 0 → s.interruptEnable.getLsbD src.bit = true →
    s.inputs = List.replicate k [] ++ [[.request src]] →
    let t := s.hostTicks n
    t.pc = src.vector ∧ t.ime = false ∧ t.runState = .running ∧ t.sp = s.sp - 2 ∧
    StoredWord s t (s.sp - 2) s.pc ∧
    t.trace = s.trace ++ [.ack src.mask, .write (s.sp - 2) (lo8 s.pc), .write (s.sp - 2 + 1) (hi8 s.pc)] ∧
    t.clock = s.clock + n + 20 ∧ t.inputs = []

/-- No `EI` delay (R326, R269): with a source pending when `EI` executes, the interrupt is taken within `EI`'s own round, and
the address pushed is that of the instruction after `EI`, which has not executed. `c` is the state after `EI` is fetched. The tick
table gives `EI` a count other than 0, as the default of R336 does: in 0 ticks no dispatcher call would be made (R329). -/
def Obligations.EiTakesEffectAtOnce : Prop :=
  ∀ s : State, s.runState = .running → s.haltBug = false → s.inputs = [] → s.answer s.pc = 0xFB →
    let c := (s.readByte s.pc).2
    let ticks := s.ticksAt [0xFB] true 4
    c.interruptPending = true → ticks ≠ 0 →
    ∃ (t : State) (src : Source), step s = .next t ∧
      highestSource (c.interruptEnable &&& c.interruptFlag) = some src ∧
      t.pc = src.vector ∧ t.ime = false ∧ t.sp = s.sp - 2 ∧ StoredWord s t (s.sp - 2) (s.pc + 1) ∧
      t.trace = [.read s.pc 0xFB, .ack src.mask,
        .write (s.sp - 2) (lo8 (s.pc + 1)), .write (s.sp - 2 + 1) (hi8 (s.pc + 1))] ∧
      t.clock = s.clock + ticks.toNat + 20 ∧ SamePart s t .flags ∧ ∀ r, SamePart s t (.reg r)

/-- An illegal opcode takes no time (R272, R329): its round ticks nothing and calls the dispatcher never, even with a source
pending and IME on. `c` is the state its `step` is called in. -/
def Obligations.IllegalTakesNoTime : Prop :=
  ∀ s : State,
    let c := s.beginRound
    c.runState = .running → c.answer c.pc ∈ Config.illegalSet →
    ∃ t, step s = .next t ∧ t.cycles = 0 ∧
      Accesses c t [.read c.pc (c.answer c.pc), .logIllegal (c.answer c.pc)] ∧
      t.pc = (if c.haltBug then c.pc else c.pc + 1) ∧ SameOutside [.pc, .haltBug, .debug, .bus] c t

/-- R291, R296: a halted core with nothing pending and an environment that does nothing stays as it is, 4 ticks a round. -/
def Obligations.HaltedCoreStaysHalted : Prop :=
  ∀ (k : Nat) (s : State), s.runState = .halted → s.inputs = [] → s.interruptPending = false →
    ∃ t, core.run k s = .next t ∧ t.runState = .halted ∧ t.clock = s.clock + 4 * k ∧
      t.bus = s.bus ∧ t.ime = s.ime ∧ t.pc = s.pc ∧ t.sp = s.sp ∧ t.f = s.f ∧ ∀ r, t.getReg r = s.getReg r

/-- The debug hooks (R300): a running core's fetch sets `paused` where the breakpoint equals PC, or where the soft break is on
and the opcode byte is `0x40`, and clears it never; a halted step does not touch it; and `paused` gates nothing, the
instruction executing all the same. `is_paused()` and `halted()` answer their fields, `set_pause` and `set_breakpoint` change
theirs alone. -/
def Obligations.DebugHooksSetPaused : Prop :=
  ∀ s : State,
    (s.runState = .halted → s.prepare.2.paused = s.paused) ∧
    (s.runState = .running →
      s.prepare.2.paused = (s.paused || s.breakpoint == some s.pc || (s.softBreak && s.answer s.pc == 0x40)) ∧
      s.prepare.2.breakpoint = s.breakpoint ∧ s.prepare.2.softBreak = s.softBreak ∧
      s.prepare.1 = (State.withoutDebug s).prepare.1) ∧
    s.isPaused = s.paused ∧ (s.halted = true ↔ s.runState = .halted) ∧
    (∀ b, s.setPause b = { s with paused := b }) ∧
    (∀ addr, s.setBreakpoint addr = { s with breakpoint := some addr })

/-! ## The whole machine -/

/-- The machine is total (R280, R70): from every state, any number of rounds ends in a next state. -/
def Obligations.MachineIsTotal : Prop := ∀ s : State, NeverStops s

/-- Every round keeps the invariant: the flag byte's low nibble is zero (R13), the bytes the bus holds are in their canonical
form, and while `halt_bug` is armed the core runs with IME off (R23). -/
def Obligations.StepKeepsInvariant : Prop :=
  ∀ s t : State, s.Inv → step s = .next t → t.Inv
end

