-- ==== Sys2Proof/Laws/State.lean ====
section
/-! SUPPORT. One lemma for each field and each named update of the state: what the field holds afterwards. With these, no later
proof unfolds an update. -/

namespace Sys2Proof.Machine

/-! ## note -/

@[simp] theorem State.note_a (s : State) (ev : Event) : (s.note ev).a = s.a := rfl
@[simp] theorem State.note_f (s : State) (ev : Event) : (s.note ev).f = s.f := rfl
@[simp] theorem State.note_b (s : State) (ev : Event) : (s.note ev).b = s.b := rfl
@[simp] theorem State.note_c (s : State) (ev : Event) : (s.note ev).c = s.c := rfl
@[simp] theorem State.note_d (s : State) (ev : Event) : (s.note ev).d = s.d := rfl
@[simp] theorem State.note_e (s : State) (ev : Event) : (s.note ev).e = s.e := rfl
@[simp] theorem State.note_h (s : State) (ev : Event) : (s.note ev).h = s.h := rfl
@[simp] theorem State.note_l (s : State) (ev : Event) : (s.note ev).l = s.l := rfl
@[simp] theorem State.note_sp (s : State) (ev : Event) : (s.note ev).sp = s.sp := rfl
@[simp] theorem State.note_pc (s : State) (ev : Event) : (s.note ev).pc = s.pc := rfl
@[simp] theorem State.note_ime (s : State) (ev : Event) : (s.note ev).ime = s.ime := rfl
@[simp] theorem State.note_runState (s : State) (ev : Event) : (s.note ev).runState = s.runState := rfl
@[simp] theorem State.note_haltBug (s : State) (ev : Event) : (s.note ev).haltBug = s.haltBug := rfl
@[simp] theorem State.note_breakpoint (s : State) (ev : Event) : (s.note ev).breakpoint = s.breakpoint := rfl
@[simp] theorem State.note_paused (s : State) (ev : Event) : (s.note ev).paused = s.paused := rfl
@[simp] theorem State.note_softBreak (s : State) (ev : Event) : (s.note ev).softBreak = s.softBreak := rfl
@[simp] theorem State.note_bus (s : State) (ev : Event) : (s.note ev).bus = s.bus := rfl
@[simp] theorem State.note_inputs (s : State) (ev : Event) : (s.note ev).inputs = s.inputs := rfl
@[simp] theorem State.note_ticks (s : State) (ev : Event) : (s.note ev).ticks = s.ticks := rfl
@[simp] theorem State.note_cycles (s : State) (ev : Event) : (s.note ev).cycles = s.cycles := rfl
@[simp] theorem State.note_clock (s : State) (ev : Event) : (s.note ev).clock = s.clock := rfl
@[simp] theorem State.note_trace (s : State) (ev : Event) : (s.note ev).trace = s.trace ++ [ev] := rfl

/-! ## poke -/

@[simp] theorem State.poke_a (s : State) (addr : Word) (v : Byte) : (s.poke addr v).a = s.a := rfl
@[simp] theorem State.poke_f (s : State) (addr : Word) (v : Byte) : (s.poke addr v).f = s.f := rfl
@[simp] theorem State.poke_b (s : State) (addr : Word) (v : Byte) : (s.poke addr v).b = s.b := rfl
@[simp] theorem State.poke_c (s : State) (addr : Word) (v : Byte) : (s.poke addr v).c = s.c := rfl
@[simp] theorem State.poke_d (s : State) (addr : Word) (v : Byte) : (s.poke addr v).d = s.d := rfl
@[simp] theorem State.poke_e (s : State) (addr : Word) (v : Byte) : (s.poke addr v).e = s.e := rfl
@[simp] theorem State.poke_h (s : State) (addr : Word) (v : Byte) : (s.poke addr v).h = s.h := rfl
@[simp] theorem State.poke_l (s : State) (addr : Word) (v : Byte) : (s.poke addr v).l = s.l := rfl
@[simp] theorem State.poke_sp (s : State) (addr : Word) (v : Byte) : (s.poke addr v).sp = s.sp := rfl
@[simp] theorem State.poke_pc (s : State) (addr : Word) (v : Byte) : (s.poke addr v).pc = s.pc := rfl
@[simp] theorem State.poke_ime (s : State) (addr : Word) (v : Byte) : (s.poke addr v).ime = s.ime := rfl
@[simp] theorem State.poke_runState (s : State) (addr : Word) (v : Byte) : (s.poke addr v).runState = s.runState := rfl
@[simp] theorem State.poke_haltBug (s : State) (addr : Word) (v : Byte) : (s.poke addr v).haltBug = s.haltBug := rfl
@[simp] theorem State.poke_breakpoint (s : State) (addr : Word) (v : Byte) : (s.poke addr v).breakpoint = s.breakpoint := rfl
@[simp] theorem State.poke_paused (s : State) (addr : Word) (v : Byte) : (s.poke addr v).paused = s.paused := rfl
@[simp] theorem State.poke_softBreak (s : State) (addr : Word) (v : Byte) : (s.poke addr v).softBreak = s.softBreak := rfl
@[simp] theorem State.poke_bus (s : State) (addr : Word) (v : Byte) : (s.poke addr v).bus = s.bus.poke addr v := rfl
@[simp] theorem State.poke_inputs (s : State) (addr : Word) (v : Byte) : (s.poke addr v).inputs = s.inputs := rfl
@[simp] theorem State.poke_ticks (s : State) (addr : Word) (v : Byte) : (s.poke addr v).ticks = s.ticks := rfl
@[simp] theorem State.poke_cycles (s : State) (addr : Word) (v : Byte) : (s.poke addr v).cycles = s.cycles := rfl
@[simp] theorem State.poke_clock (s : State) (addr : Word) (v : Byte) : (s.poke addr v).clock = s.clock := rfl
@[simp] theorem State.poke_trace (s : State) (addr : Word) (v : Byte) : (s.poke addr v).trace = s.trace := rfl

/-! ## setCycles -/

@[simp] theorem State.setCycles_a (s : State) (n : Byte) : (s.setCycles n).a = s.a := rfl
@[simp] theorem State.setCycles_f (s : State) (n : Byte) : (s.setCycles n).f = s.f := rfl
@[simp] theorem State.setCycles_b (s : State) (n : Byte) : (s.setCycles n).b = s.b := rfl
@[simp] theorem State.setCycles_c (s : State) (n : Byte) : (s.setCycles n).c = s.c := rfl
@[simp] theorem State.setCycles_d (s : State) (n : Byte) : (s.setCycles n).d = s.d := rfl
@[simp] theorem State.setCycles_e (s : State) (n : Byte) : (s.setCycles n).e = s.e := rfl
@[simp] theorem State.setCycles_h (s : State) (n : Byte) : (s.setCycles n).h = s.h := rfl
@[simp] theorem State.setCycles_l (s : State) (n : Byte) : (s.setCycles n).l = s.l := rfl
@[simp] theorem State.setCycles_sp (s : State) (n : Byte) : (s.setCycles n).sp = s.sp := rfl
@[simp] theorem State.setCycles_pc (s : State) (n : Byte) : (s.setCycles n).pc = s.pc := rfl
@[simp] theorem State.setCycles_ime (s : State) (n : Byte) : (s.setCycles n).ime = s.ime := rfl
@[simp] theorem State.setCycles_runState (s : State) (n : Byte) : (s.setCycles n).runState = s.runState := rfl
@[simp] theorem State.setCycles_haltBug (s : State) (n : Byte) : (s.setCycles n).haltBug = s.haltBug := rfl
@[simp] theorem State.setCycles_breakpoint (s : State) (n : Byte) : (s.setCycles n).breakpoint = s.breakpoint := rfl
@[simp] theorem State.setCycles_paused (s : State) (n : Byte) : (s.setCycles n).paused = s.paused := rfl
@[simp] theorem State.setCycles_softBreak (s : State) (n : Byte) : (s.setCycles n).softBreak = s.softBreak := rfl
@[simp] theorem State.setCycles_bus (s : State) (n : Byte) : (s.setCycles n).bus = s.bus := rfl
@[simp] theorem State.setCycles_inputs (s : State) (n : Byte) : (s.setCycles n).inputs = s.inputs := rfl
@[simp] theorem State.setCycles_ticks (s : State) (n : Byte) : (s.setCycles n).ticks = s.ticks := rfl
@[simp] theorem State.setCycles_cycles (s : State) (n : Byte) : (s.setCycles n).cycles = n := rfl
@[simp] theorem State.setCycles_clock (s : State) (n : Byte) : (s.setCycles n).clock = s.clock := rfl
@[simp] theorem State.setCycles_trace (s : State) (n : Byte) : (s.setCycles n).trace = s.trace := rfl

/-! ## setFlags -/

@[simp] theorem State.setFlags_a (s : State) (z n h c : Option Bool) : (s.setFlags z n h c).a = s.a := rfl
@[simp] theorem State.setFlags_f (s : State) (z n h c : Option Bool) : (s.setFlags z n h c).f = putBit 7 z (putBit 6 n (putBit 5 h (putBit 4 c s.f))) := rfl
@[simp] theorem State.setFlags_b (s : State) (z n h c : Option Bool) : (s.setFlags z n h c).b = s.b := rfl
@[simp] theorem State.setFlags_c (s : State) (z n h c : Option Bool) : (s.setFlags z n h c).c = s.c := rfl
@[simp] theorem State.setFlags_d (s : State) (z n h c : Option Bool) : (s.setFlags z n h c).d = s.d := rfl
@[simp] theorem State.setFlags_e (s : State) (z n h c : Option Bool) : (s.setFlags z n h c).e = s.e := rfl
@[simp] theorem State.setFlags_h (s : State) (z n h c : Option Bool) : (s.setFlags z n h c).h = s.h := rfl
@[simp] theorem State.setFlags_l (s : State) (z n h c : Option Bool) : (s.setFlags z n h c).l = s.l := rfl
@[simp] theorem State.setFlags_sp (s : State) (z n h c : Option Bool) : (s.setFlags z n h c).sp = s.sp := rfl
@[simp] theorem State.setFlags_pc (s : State) (z n h c : Option Bool) : (s.setFlags z n h c).pc = s.pc := rfl
@[simp] theorem State.setFlags_ime (s : State) (z n h c : Option Bool) : (s.setFlags z n h c).ime = s.ime := rfl
@[simp] theorem State.setFlags_runState (s : State) (z n h c : Option Bool) : (s.setFlags z n h c).runState = s.runState := rfl
@[simp] theorem State.setFlags_haltBug (s : State) (z n h c : Option Bool) : (s.setFlags z n h c).haltBug = s.haltBug := rfl
@[simp] theorem State.setFlags_breakpoint (s : State) (z n h c : Option Bool) : (s.setFlags z n h c).breakpoint = s.breakpoint := rfl
@[simp] theorem State.setFlags_paused (s : State) (z n h c : Option Bool) : (s.setFlags z n h c).paused = s.paused := rfl
@[simp] theorem State.setFlags_softBreak (s : State) (z n h c : Option Bool) : (s.setFlags z n h c).softBreak = s.softBreak := rfl
@[simp] theorem State.setFlags_bus (s : State) (z n h c : Option Bool) : (s.setFlags z n h c).bus = s.bus := rfl
@[simp] theorem State.setFlags_inputs (s : State) (z n h c : Option Bool) : (s.setFlags z n h c).inputs = s.inputs := rfl
@[simp] theorem State.setFlags_ticks (s : State) (z n h c : Option Bool) : (s.setFlags z n h c).ticks = s.ticks := rfl
@[simp] theorem State.setFlags_cycles (s : State) (z n h c : Option Bool) : (s.setFlags z n h c).cycles = s.cycles := rfl
@[simp] theorem State.setFlags_clock (s : State) (z n h c : Option Bool) : (s.setFlags z n h c).clock = s.clock := rfl
@[simp] theorem State.setFlags_trace (s : State) (z n h c : Option Bool) : (s.setFlags z n h c).trace = s.trace := rfl

/-! ## setHL -/

@[simp] theorem State.setHL_a (s : State) (v : Word) : (s.setHL v).a = s.a := rfl
@[simp] theorem State.setHL_f (s : State) (v : Word) : (s.setHL v).f = s.f := rfl
@[simp] theorem State.setHL_b (s : State) (v : Word) : (s.setHL v).b = s.b := rfl
@[simp] theorem State.setHL_c (s : State) (v : Word) : (s.setHL v).c = s.c := rfl
@[simp] theorem State.setHL_d (s : State) (v : Word) : (s.setHL v).d = s.d := rfl
@[simp] theorem State.setHL_e (s : State) (v : Word) : (s.setHL v).e = s.e := rfl
@[simp] theorem State.setHL_h (s : State) (v : Word) : (s.setHL v).h = hi8 v := rfl
@[simp] theorem State.setHL_l (s : State) (v : Word) : (s.setHL v).l = lo8 v := rfl
@[simp] theorem State.setHL_sp (s : State) (v : Word) : (s.setHL v).sp = s.sp := rfl
@[simp] theorem State.setHL_pc (s : State) (v : Word) : (s.setHL v).pc = s.pc := rfl
@[simp] theorem State.setHL_ime (s : State) (v : Word) : (s.setHL v).ime = s.ime := rfl
@[simp] theorem State.setHL_runState (s : State) (v : Word) : (s.setHL v).runState = s.runState := rfl
@[simp] theorem State.setHL_haltBug (s : State) (v : Word) : (s.setHL v).haltBug = s.haltBug := rfl
@[simp] theorem State.setHL_breakpoint (s : State) (v : Word) : (s.setHL v).breakpoint = s.breakpoint := rfl
@[simp] theorem State.setHL_paused (s : State) (v : Word) : (s.setHL v).paused = s.paused := rfl
@[simp] theorem State.setHL_softBreak (s : State) (v : Word) : (s.setHL v).softBreak = s.softBreak := rfl
@[simp] theorem State.setHL_bus (s : State) (v : Word) : (s.setHL v).bus = s.bus := rfl
@[simp] theorem State.setHL_inputs (s : State) (v : Word) : (s.setHL v).inputs = s.inputs := rfl
@[simp] theorem State.setHL_ticks (s : State) (v : Word) : (s.setHL v).ticks = s.ticks := rfl
@[simp] theorem State.setHL_cycles (s : State) (v : Word) : (s.setHL v).cycles = s.cycles := rfl
@[simp] theorem State.setHL_clock (s : State) (v : Word) : (s.setHL v).clock = s.clock := rfl
@[simp] theorem State.setHL_trace (s : State) (v : Word) : (s.setHL v).trace = s.trace := rfl

/-! ## setReg -/

@[simp] theorem State.setReg_f (s : State) (r : Reg8) (v : Byte) : (s.setReg r v).f = s.f := by cases r <;> rfl
@[simp] theorem State.setReg_sp (s : State) (r : Reg8) (v : Byte) : (s.setReg r v).sp = s.sp := by cases r <;> rfl
@[simp] theorem State.setReg_pc (s : State) (r : Reg8) (v : Byte) : (s.setReg r v).pc = s.pc := by cases r <;> rfl
@[simp] theorem State.setReg_ime (s : State) (r : Reg8) (v : Byte) : (s.setReg r v).ime = s.ime := by cases r <;> rfl
@[simp] theorem State.setReg_runState (s : State) (r : Reg8) (v : Byte) : (s.setReg r v).runState = s.runState := by cases r <;> rfl
@[simp] theorem State.setReg_haltBug (s : State) (r : Reg8) (v : Byte) : (s.setReg r v).haltBug = s.haltBug := by cases r <;> rfl
@[simp] theorem State.setReg_breakpoint (s : State) (r : Reg8) (v : Byte) : (s.setReg r v).breakpoint = s.breakpoint := by cases r <;> rfl
@[simp] theorem State.setReg_paused (s : State) (r : Reg8) (v : Byte) : (s.setReg r v).paused = s.paused := by cases r <;> rfl
@[simp] theorem State.setReg_softBreak (s : State) (r : Reg8) (v : Byte) : (s.setReg r v).softBreak = s.softBreak := by cases r <;> rfl
@[simp] theorem State.setReg_bus (s : State) (r : Reg8) (v : Byte) : (s.setReg r v).bus = s.bus := by cases r <;> rfl
@[simp] theorem State.setReg_inputs (s : State) (r : Reg8) (v : Byte) : (s.setReg r v).inputs = s.inputs := by cases r <;> rfl
@[simp] theorem State.setReg_ticks (s : State) (r : Reg8) (v : Byte) : (s.setReg r v).ticks = s.ticks := by cases r <;> rfl
@[simp] theorem State.setReg_cycles (s : State) (r : Reg8) (v : Byte) : (s.setReg r v).cycles = s.cycles := by cases r <;> rfl
@[simp] theorem State.setReg_clock (s : State) (r : Reg8) (v : Byte) : (s.setReg r v).clock = s.clock := by cases r <;> rfl
@[simp] theorem State.setReg_trace (s : State) (r : Reg8) (v : Byte) : (s.setReg r v).trace = s.trace := by cases r <;> rfl

/-! ## setPair -/

@[simp] theorem State.setPair_sp (s : State) (p : StackPair) (v : Word) : (s.setPair p v).sp = s.sp := by cases p <;> rfl
@[simp] theorem State.setPair_pc (s : State) (p : StackPair) (v : Word) : (s.setPair p v).pc = s.pc := by cases p <;> rfl
@[simp] theorem State.setPair_ime (s : State) (p : StackPair) (v : Word) : (s.setPair p v).ime = s.ime := by cases p <;> rfl
@[simp] theorem State.setPair_runState (s : State) (p : StackPair) (v : Word) : (s.setPair p v).runState = s.runState := by cases p <;> rfl
@[simp] theorem State.setPair_haltBug (s : State) (p : StackPair) (v : Word) : (s.setPair p v).haltBug = s.haltBug := by cases p <;> rfl
@[simp] theorem State.setPair_breakpoint (s : State) (p : StackPair) (v : Word) : (s.setPair p v).breakpoint = s.breakpoint := by cases p <;> rfl
@[simp] theorem State.setPair_paused (s : State) (p : StackPair) (v : Word) : (s.setPair p v).paused = s.paused := by cases p <;> rfl
@[simp] theorem State.setPair_softBreak (s : State) (p : StackPair) (v : Word) : (s.setPair p v).softBreak = s.softBreak := by cases p <;> rfl
@[simp] theorem State.setPair_bus (s : State) (p : StackPair) (v : Word) : (s.setPair p v).bus = s.bus := by cases p <;> rfl
@[simp] theorem State.setPair_inputs (s : State) (p : StackPair) (v : Word) : (s.setPair p v).inputs = s.inputs := by cases p <;> rfl
@[simp] theorem State.setPair_ticks (s : State) (p : StackPair) (v : Word) : (s.setPair p v).ticks = s.ticks := by cases p <;> rfl
@[simp] theorem State.setPair_cycles (s : State) (p : StackPair) (v : Word) : (s.setPair p v).cycles = s.cycles := by cases p <;> rfl
@[simp] theorem State.setPair_clock (s : State) (p : StackPair) (v : Word) : (s.setPair p v).clock = s.clock := by cases p <;> rfl
@[simp] theorem State.setPair_trace (s : State) (p : StackPair) (v : Word) : (s.setPair p v).trace = s.trace := by cases p <;> rfl

/-! ## setRP -/

@[simp] theorem State.setRP_a (s : State) (p : RegPair) (v : Word) : (s.setRP p v).a = s.a := by cases p <;> rfl
@[simp] theorem State.setRP_f (s : State) (p : RegPair) (v : Word) : (s.setRP p v).f = s.f := by cases p <;> rfl
@[simp] theorem State.setRP_pc (s : State) (p : RegPair) (v : Word) : (s.setRP p v).pc = s.pc := by cases p <;> rfl
@[simp] theorem State.setRP_ime (s : State) (p : RegPair) (v : Word) : (s.setRP p v).ime = s.ime := by cases p <;> rfl
@[simp] theorem State.setRP_runState (s : State) (p : RegPair) (v : Word) : (s.setRP p v).runState = s.runState := by cases p <;> rfl
@[simp] theorem State.setRP_haltBug (s : State) (p : RegPair) (v : Word) : (s.setRP p v).haltBug = s.haltBug := by cases p <;> rfl
@[simp] theorem State.setRP_breakpoint (s : State) (p : RegPair) (v : Word) : (s.setRP p v).breakpoint = s.breakpoint := by cases p <;> rfl
@[simp] theorem State.setRP_paused (s : State) (p : RegPair) (v : Word) : (s.setRP p v).paused = s.paused := by cases p <;> rfl
@[simp] theorem State.setRP_softBreak (s : State) (p : RegPair) (v : Word) : (s.setRP p v).softBreak = s.softBreak := by cases p <;> rfl
@[simp] theorem State.setRP_bus (s : State) (p : RegPair) (v : Word) : (s.setRP p v).bus = s.bus := by cases p <;> rfl
@[simp] theorem State.setRP_inputs (s : State) (p : RegPair) (v : Word) : (s.setRP p v).inputs = s.inputs := by cases p <;> rfl
@[simp] theorem State.setRP_ticks (s : State) (p : RegPair) (v : Word) : (s.setRP p v).ticks = s.ticks := by cases p <;> rfl
@[simp] theorem State.setRP_cycles (s : State) (p : RegPair) (v : Word) : (s.setRP p v).cycles = s.cycles := by cases p <;> rfl
@[simp] theorem State.setRP_clock (s : State) (p : RegPair) (v : Word) : (s.setRP p v).clock = s.clock := by cases p <;> rfl
@[simp] theorem State.setRP_trace (s : State) (p : RegPair) (v : Word) : (s.setRP p v).trace = s.trace := by cases p <;> rfl

/-! ## readByte -/

@[simp] theorem State.readByte_a (s : State) (addr : Word) : ((s.readByte addr).2).a = s.a := rfl
@[simp] theorem State.readByte_f (s : State) (addr : Word) : ((s.readByte addr).2).f = s.f := rfl
@[simp] theorem State.readByte_b (s : State) (addr : Word) : ((s.readByte addr).2).b = s.b := rfl
@[simp] theorem State.readByte_c (s : State) (addr : Word) : ((s.readByte addr).2).c = s.c := rfl
@[simp] theorem State.readByte_d (s : State) (addr : Word) : ((s.readByte addr).2).d = s.d := rfl
@[simp] theorem State.readByte_e (s : State) (addr : Word) : ((s.readByte addr).2).e = s.e := rfl
@[simp] theorem State.readByte_h (s : State) (addr : Word) : ((s.readByte addr).2).h = s.h := rfl
@[simp] theorem State.readByte_l (s : State) (addr : Word) : ((s.readByte addr).2).l = s.l := rfl
@[simp] theorem State.readByte_sp (s : State) (addr : Word) : ((s.readByte addr).2).sp = s.sp := rfl
@[simp] theorem State.readByte_pc (s : State) (addr : Word) : ((s.readByte addr).2).pc = s.pc := rfl
@[simp] theorem State.readByte_ime (s : State) (addr : Word) : ((s.readByte addr).2).ime = s.ime := rfl
@[simp] theorem State.readByte_runState (s : State) (addr : Word) : ((s.readByte addr).2).runState = s.runState := rfl
@[simp] theorem State.readByte_haltBug (s : State) (addr : Word) : ((s.readByte addr).2).haltBug = s.haltBug := rfl
@[simp] theorem State.readByte_breakpoint (s : State) (addr : Word) : ((s.readByte addr).2).breakpoint = s.breakpoint := rfl
@[simp] theorem State.readByte_paused (s : State) (addr : Word) : ((s.readByte addr).2).paused = s.paused := rfl
@[simp] theorem State.readByte_softBreak (s : State) (addr : Word) : ((s.readByte addr).2).softBreak = s.softBreak := rfl
@[simp] theorem State.readByte_bus (s : State) (addr : Word) : ((s.readByte addr).2).bus = (s.bus.read addr).2 := rfl
@[simp] theorem State.readByte_inputs (s : State) (addr : Word) : ((s.readByte addr).2).inputs = s.inputs := rfl
@[simp] theorem State.readByte_ticks (s : State) (addr : Word) : ((s.readByte addr).2).ticks = s.ticks := rfl
@[simp] theorem State.readByte_cycles (s : State) (addr : Word) : ((s.readByte addr).2).cycles = s.cycles := rfl
@[simp] theorem State.readByte_clock (s : State) (addr : Word) : ((s.readByte addr).2).clock = s.clock := rfl
@[simp] theorem State.readByte_trace (s : State) (addr : Word) : ((s.readByte addr).2).trace = s.trace ++ [.read addr (s.bus.read addr).1] := rfl

/-! ## writeByte -/

@[simp] theorem State.writeByte_a (s : State) (addr : Word) (v : Byte) : (s.writeByte addr v).a = s.a := rfl
@[simp] theorem State.writeByte_f (s : State) (addr : Word) (v : Byte) : (s.writeByte addr v).f = s.f := rfl
@[simp] theorem State.writeByte_b (s : State) (addr : Word) (v : Byte) : (s.writeByte addr v).b = s.b := rfl
@[simp] theorem State.writeByte_c (s : State) (addr : Word) (v : Byte) : (s.writeByte addr v).c = s.c := rfl
@[simp] theorem State.writeByte_d (s : State) (addr : Word) (v : Byte) : (s.writeByte addr v).d = s.d := rfl
@[simp] theorem State.writeByte_e (s : State) (addr : Word) (v : Byte) : (s.writeByte addr v).e = s.e := rfl
@[simp] theorem State.writeByte_h (s : State) (addr : Word) (v : Byte) : (s.writeByte addr v).h = s.h := rfl
@[simp] theorem State.writeByte_l (s : State) (addr : Word) (v : Byte) : (s.writeByte addr v).l = s.l := rfl
@[simp] theorem State.writeByte_sp (s : State) (addr : Word) (v : Byte) : (s.writeByte addr v).sp = s.sp := rfl
@[simp] theorem State.writeByte_pc (s : State) (addr : Word) (v : Byte) : (s.writeByte addr v).pc = s.pc := rfl
@[simp] theorem State.writeByte_ime (s : State) (addr : Word) (v : Byte) : (s.writeByte addr v).ime = s.ime := rfl
@[simp] theorem State.writeByte_runState (s : State) (addr : Word) (v : Byte) : (s.writeByte addr v).runState = s.runState := rfl
@[simp] theorem State.writeByte_haltBug (s : State) (addr : Word) (v : Byte) : (s.writeByte addr v).haltBug = s.haltBug := rfl
@[simp] theorem State.writeByte_breakpoint (s : State) (addr : Word) (v : Byte) : (s.writeByte addr v).breakpoint = s.breakpoint := rfl
@[simp] theorem State.writeByte_paused (s : State) (addr : Word) (v : Byte) : (s.writeByte addr v).paused = s.paused := rfl
@[simp] theorem State.writeByte_softBreak (s : State) (addr : Word) (v : Byte) : (s.writeByte addr v).softBreak = s.softBreak := rfl
@[simp] theorem State.writeByte_bus (s : State) (addr : Word) (v : Byte) : (s.writeByte addr v).bus = s.bus.write addr v := rfl
@[simp] theorem State.writeByte_inputs (s : State) (addr : Word) (v : Byte) : (s.writeByte addr v).inputs = s.inputs := rfl
@[simp] theorem State.writeByte_ticks (s : State) (addr : Word) (v : Byte) : (s.writeByte addr v).ticks = s.ticks := rfl
@[simp] theorem State.writeByte_cycles (s : State) (addr : Word) (v : Byte) : (s.writeByte addr v).cycles = s.cycles := rfl
@[simp] theorem State.writeByte_clock (s : State) (addr : Word) (v : Byte) : (s.writeByte addr v).clock = s.clock := rfl
@[simp] theorem State.writeByte_trace (s : State) (addr : Word) (v : Byte) : (s.writeByte addr v).trace = s.trace ++ [.write addr v] := rfl

/-! ## setPause -/

@[simp] theorem State.setPause_a (s : State) (b : Bool) : (s.setPause b).a = s.a := rfl
@[simp] theorem State.setPause_f (s : State) (b : Bool) : (s.setPause b).f = s.f := rfl
@[simp] theorem State.setPause_b (s : State) (b : Bool) : (s.setPause b).b = s.b := rfl
@[simp] theorem State.setPause_c (s : State) (b : Bool) : (s.setPause b).c = s.c := rfl
@[simp] theorem State.setPause_d (s : State) (b : Bool) : (s.setPause b).d = s.d := rfl
@[simp] theorem State.setPause_e (s : State) (b : Bool) : (s.setPause b).e = s.e := rfl
@[simp] theorem State.setPause_h (s : State) (b : Bool) : (s.setPause b).h = s.h := rfl
@[simp] theorem State.setPause_l (s : State) (b : Bool) : (s.setPause b).l = s.l := rfl
@[simp] theorem State.setPause_sp (s : State) (b : Bool) : (s.setPause b).sp = s.sp := rfl
@[simp] theorem State.setPause_pc (s : State) (b : Bool) : (s.setPause b).pc = s.pc := rfl
@[simp] theorem State.setPause_ime (s : State) (b : Bool) : (s.setPause b).ime = s.ime := rfl
@[simp] theorem State.setPause_runState (s : State) (b : Bool) : (s.setPause b).runState = s.runState := rfl
@[simp] theorem State.setPause_haltBug (s : State) (b : Bool) : (s.setPause b).haltBug = s.haltBug := rfl
@[simp] theorem State.setPause_breakpoint (s : State) (b : Bool) : (s.setPause b).breakpoint = s.breakpoint := rfl
@[simp] theorem State.setPause_paused (s : State) (b : Bool) : (s.setPause b).paused = b := rfl
@[simp] theorem State.setPause_softBreak (s : State) (b : Bool) : (s.setPause b).softBreak = s.softBreak := rfl
@[simp] theorem State.setPause_bus (s : State) (b : Bool) : (s.setPause b).bus = s.bus := rfl
@[simp] theorem State.setPause_inputs (s : State) (b : Bool) : (s.setPause b).inputs = s.inputs := rfl
@[simp] theorem State.setPause_ticks (s : State) (b : Bool) : (s.setPause b).ticks = s.ticks := rfl
@[simp] theorem State.setPause_cycles (s : State) (b : Bool) : (s.setPause b).cycles = s.cycles := rfl
@[simp] theorem State.setPause_clock (s : State) (b : Bool) : (s.setPause b).clock = s.clock := rfl
@[simp] theorem State.setPause_trace (s : State) (b : Bool) : (s.setPause b).trace = s.trace := rfl

/-! ## setBreakpoint -/

@[simp] theorem State.setBreakpoint_a (s : State) (addr : Word) : (s.setBreakpoint addr).a = s.a := rfl
@[simp] theorem State.setBreakpoint_f (s : State) (addr : Word) : (s.setBreakpoint addr).f = s.f := rfl
@[simp] theorem State.setBreakpoint_b (s : State) (addr : Word) : (s.setBreakpoint addr).b = s.b := rfl
@[simp] theorem State.setBreakpoint_c (s : State) (addr : Word) : (s.setBreakpoint addr).c = s.c := rfl
@[simp] theorem State.setBreakpoint_d (s : State) (addr : Word) : (s.setBreakpoint addr).d = s.d := rfl
@[simp] theorem State.setBreakpoint_e (s : State) (addr : Word) : (s.setBreakpoint addr).e = s.e := rfl
@[simp] theorem State.setBreakpoint_h (s : State) (addr : Word) : (s.setBreakpoint addr).h = s.h := rfl
@[simp] theorem State.setBreakpoint_l (s : State) (addr : Word) : (s.setBreakpoint addr).l = s.l := rfl
@[simp] theorem State.setBreakpoint_sp (s : State) (addr : Word) : (s.setBreakpoint addr).sp = s.sp := rfl
@[simp] theorem State.setBreakpoint_pc (s : State) (addr : Word) : (s.setBreakpoint addr).pc = s.pc := rfl
@[simp] theorem State.setBreakpoint_ime (s : State) (addr : Word) : (s.setBreakpoint addr).ime = s.ime := rfl
@[simp] theorem State.setBreakpoint_runState (s : State) (addr : Word) : (s.setBreakpoint addr).runState = s.runState := rfl
@[simp] theorem State.setBreakpoint_haltBug (s : State) (addr : Word) : (s.setBreakpoint addr).haltBug = s.haltBug := rfl
@[simp] theorem State.setBreakpoint_breakpoint (s : State) (addr : Word) : (s.setBreakpoint addr).breakpoint = some addr := rfl
@[simp] theorem State.setBreakpoint_paused (s : State) (addr : Word) : (s.setBreakpoint addr).paused = s.paused := rfl
@[simp] theorem State.setBreakpoint_softBreak (s : State) (addr : Word) : (s.setBreakpoint addr).softBreak = s.softBreak := rfl
@[simp] theorem State.setBreakpoint_bus (s : State) (addr : Word) : (s.setBreakpoint addr).bus = s.bus := rfl
@[simp] theorem State.setBreakpoint_inputs (s : State) (addr : Word) : (s.setBreakpoint addr).inputs = s.inputs := rfl
@[simp] theorem State.setBreakpoint_ticks (s : State) (addr : Word) : (s.setBreakpoint addr).ticks = s.ticks := rfl
@[simp] theorem State.setBreakpoint_cycles (s : State) (addr : Word) : (s.setBreakpoint addr).cycles = s.cycles := rfl
@[simp] theorem State.setBreakpoint_clock (s : State) (addr : Word) : (s.setBreakpoint addr).clock = s.clock := rfl
@[simp] theorem State.setBreakpoint_trace (s : State) (addr : Word) : (s.setBreakpoint addr).trace = s.trace := rfl

/-! ## ackInterrupt -/

@[simp] theorem State.ackInterrupt_a (s : State) (m : BitVec 5) : (s.ackInterrupt m).a = s.a := rfl
@[simp] theorem State.ackInterrupt_f (s : State) (m : BitVec 5) : (s.ackInterrupt m).f = s.f := rfl
@[simp] theorem State.ackInterrupt_b (s : State) (m : BitVec 5) : (s.ackInterrupt m).b = s.b := rfl
@[simp] theorem State.ackInterrupt_c (s : State) (m : BitVec 5) : (s.ackInterrupt m).c = s.c := rfl
@[simp] theorem State.ackInterrupt_d (s : State) (m : BitVec 5) : (s.ackInterrupt m).d = s.d := rfl
@[simp] theorem State.ackInterrupt_e (s : State) (m : BitVec 5) : (s.ackInterrupt m).e = s.e := rfl
@[simp] theorem State.ackInterrupt_h (s : State) (m : BitVec 5) : (s.ackInterrupt m).h = s.h := rfl
@[simp] theorem State.ackInterrupt_l (s : State) (m : BitVec 5) : (s.ackInterrupt m).l = s.l := rfl
@[simp] theorem State.ackInterrupt_sp (s : State) (m : BitVec 5) : (s.ackInterrupt m).sp = s.sp := rfl
@[simp] theorem State.ackInterrupt_pc (s : State) (m : BitVec 5) : (s.ackInterrupt m).pc = s.pc := rfl
@[simp] theorem State.ackInterrupt_ime (s : State) (m : BitVec 5) : (s.ackInterrupt m).ime = s.ime := rfl
@[simp] theorem State.ackInterrupt_runState (s : State) (m : BitVec 5) : (s.ackInterrupt m).runState = s.runState := rfl
@[simp] theorem State.ackInterrupt_haltBug (s : State) (m : BitVec 5) : (s.ackInterrupt m).haltBug = s.haltBug := rfl
@[simp] theorem State.ackInterrupt_breakpoint (s : State) (m : BitVec 5) : (s.ackInterrupt m).breakpoint = s.breakpoint := rfl
@[simp] theorem State.ackInterrupt_paused (s : State) (m : BitVec 5) : (s.ackInterrupt m).paused = s.paused := rfl
@[simp] theorem State.ackInterrupt_softBreak (s : State) (m : BitVec 5) : (s.ackInterrupt m).softBreak = s.softBreak := rfl
@[simp] theorem State.ackInterrupt_bus (s : State) (m : BitVec 5) : (s.ackInterrupt m).bus = s.bus.ack m := rfl
@[simp] theorem State.ackInterrupt_inputs (s : State) (m : BitVec 5) : (s.ackInterrupt m).inputs = s.inputs := rfl
@[simp] theorem State.ackInterrupt_ticks (s : State) (m : BitVec 5) : (s.ackInterrupt m).ticks = s.ticks := rfl
@[simp] theorem State.ackInterrupt_cycles (s : State) (m : BitVec 5) : (s.ackInterrupt m).cycles = s.cycles := rfl
@[simp] theorem State.ackInterrupt_clock (s : State) (m : BitVec 5) : (s.ackInterrupt m).clock = s.clock := rfl
@[simp] theorem State.ackInterrupt_trace (s : State) (m : BitVec 5) : (s.ackInterrupt m).trace = s.trace ++ [.ack m] := rfl

/-! ## The tick table, after any of them -/

@[simp] theorem State.ticksAt_note (s : State) (ev : Event) (bytes : List Byte) (taken : Bool) (dflt : Byte) :
    (s.note ev).ticksAt bytes taken dflt = s.ticksAt bytes taken dflt := rfl
@[simp] theorem State.ticksAt_poke (s : State) (addr : Word) (v : Byte) (bytes : List Byte) (taken : Bool) (dflt : Byte) :
    (s.poke addr v).ticksAt bytes taken dflt = s.ticksAt bytes taken dflt := rfl
@[simp] theorem State.ticksAt_setCycles (s : State) (n : Byte) (bytes : List Byte) (taken : Bool) (dflt : Byte) :
    (s.setCycles n).ticksAt bytes taken dflt = s.ticksAt bytes taken dflt := rfl
@[simp] theorem State.ticksAt_setFlags (s : State) (z n h c : Option Bool) (bytes : List Byte) (taken : Bool) (dflt : Byte) :
    (s.setFlags z n h c).ticksAt bytes taken dflt = s.ticksAt bytes taken dflt := rfl
@[simp] theorem State.ticksAt_setHL (s : State) (v : Word) (bytes : List Byte) (taken : Bool) (dflt : Byte) :
    (s.setHL v).ticksAt bytes taken dflt = s.ticksAt bytes taken dflt := rfl
@[simp] theorem State.ticksAt_setReg (s : State) (r : Reg8) (v : Byte) (bytes : List Byte) (taken : Bool) (dflt : Byte) :
    (s.setReg r v).ticksAt bytes taken dflt = s.ticksAt bytes taken dflt := by cases r <;> rfl
@[simp] theorem State.ticksAt_setPair (s : State) (p : StackPair) (v : Word) (bytes : List Byte) (taken : Bool) (dflt : Byte) :
    (s.setPair p v).ticksAt bytes taken dflt = s.ticksAt bytes taken dflt := by cases p <;> rfl
@[simp] theorem State.ticksAt_setRP (s : State) (p : RegPair) (v : Word) (bytes : List Byte) (taken : Bool) (dflt : Byte) :
    (s.setRP p v).ticksAt bytes taken dflt = s.ticksAt bytes taken dflt := by cases p <;> rfl
@[simp] theorem State.ticksAt_readByte (s : State) (addr : Word) (bytes : List Byte) (taken : Bool) (dflt : Byte) :
    ((s.readByte addr).2).ticksAt bytes taken dflt = s.ticksAt bytes taken dflt := rfl
@[simp] theorem State.ticksAt_writeByte (s : State) (addr : Word) (v : Byte) (bytes : List Byte) (taken : Bool) (dflt : Byte) :
    (s.writeByte addr v).ticksAt bytes taken dflt = s.ticksAt bytes taken dflt := rfl
@[simp] theorem State.ticksAt_setPause (s : State) (b : Bool) (bytes : List Byte) (taken : Bool) (dflt : Byte) :
    (s.setPause b).ticksAt bytes taken dflt = s.ticksAt bytes taken dflt := rfl
@[simp] theorem State.ticksAt_setBreakpoint (s : State) (addr : Word) (bytes : List Byte) (taken : Bool) (dflt : Byte) :
    (s.setBreakpoint addr).ticksAt bytes taken dflt = s.ticksAt bytes taken dflt := rfl
@[simp] theorem State.ticksAt_ackInterrupt (s : State) (m : BitVec 5) (bytes : List Byte) (taken : Bool) (dflt : Byte) :
    (s.ackInterrupt m).ticksAt bytes taken dflt = s.ticksAt bytes taken dflt := rfl

/-! ## The read of one byte, after an update that leaves memory alone -/

@[simp] theorem State.peek_note (s : State) (ev : Event) (x : Word) : (s.note ev).peek x = s.peek x := rfl
@[simp] theorem State.peek_setFlags (s : State) (z n h c : Option Bool) (x : Word) :
    (s.setFlags z n h c).peek x = s.peek x := rfl
@[simp] theorem State.peek_setHL (s : State) (v x : Word) : (s.setHL v).peek x = s.peek x := rfl
@[simp] theorem State.peek_setReg (s : State) (r : Reg8) (v : Byte) (x : Word) : (s.setReg r v).peek x = s.peek x := by
  cases r <;> rfl
@[simp] theorem State.peek_setPair (s : State) (p : StackPair) (v x : Word) : (s.setPair p v).peek x = s.peek x := by
  cases p <;> rfl
@[simp] theorem State.peek_setRP (s : State) (p : RegPair) (v x : Word) : (s.setRP p v).peek x = s.peek x := by
  cases p <;> rfl
@[simp] theorem State.readByte_value (s : State) (addr : Word) : (s.readByte addr).1 = (s.bus.read addr).1 := rfl
@[simp] theorem State.peek_setCycles (s : State) (n : Byte) (x : Word) : (s.setCycles n).peek x = s.peek x := rfl

/-! ## The readers of registers and flags, after an update of something else -/

@[simp] theorem State.getReg_setCycles (s : State) (n : Byte) (r : Reg8) : (s.setCycles n).getReg r = s.getReg r := by
  cases r <;> rfl
@[simp] theorem State.getRP_setCycles (s : State) (n : Byte) (p : RegPair) : (s.setCycles n).getRP p = s.getRP p := by
  cases p <;> rfl
@[simp] theorem State.getPair_setCycles (s : State) (n : Byte) (p : StackPair) :
    (s.setCycles n).getPair p = s.getPair p := by
  cases p <;> rfl
@[simp] theorem State.getReg_setFlags (s : State) (z n h c : Option Bool) (r : Reg8) :
    (s.setFlags z n h c).getReg r = s.getReg r := by
  cases r <;> rfl
@[simp] theorem State.getReg_writeByte (s : State) (addr : Word) (v : Byte) (r : Reg8) :
    (s.writeByte addr v).getReg r = s.getReg r := by
  cases r <;> rfl
@[simp] theorem State.getReg_readByte (s : State) (addr : Word) (r : Reg8) : (s.readByte addr).2.getReg r = s.getReg r := by
  cases r <;> rfl
@[simp] theorem State.hl_setCycles (s : State) (n : Byte) : (s.setCycles n).hl = s.hl := rfl
@[simp] theorem State.hl_setFlags (s : State) (z n h c : Option Bool) : (s.setFlags z n h c).hl = s.hl := rfl
@[simp] theorem State.flagZ_setCycles (s : State) (n : Byte) : (s.setCycles n).flagZ = s.flagZ := rfl
@[simp] theorem State.flagN_setCycles (s : State) (n : Byte) : (s.setCycles n).flagN = s.flagN := rfl
@[simp] theorem State.flagH_setCycles (s : State) (n : Byte) : (s.setCycles n).flagH = s.flagH := rfl
@[simp] theorem State.flagC_setCycles (s : State) (n : Byte) : (s.setCycles n).flagC = s.flagC := rfl

end Sys2Proof.Machine
end

