-- ==== Sys2Proof/Laws/Memory.lean ====
section
/-! SUPPORT. The laws of memory and of the bus: a read after a write, that every operation keeps the canonical form, and what an
access does at an address that is memory. The read laws need no premise; they hold of any list of cells. -/

namespace Sys2Proof.Machine

theorem Memory.read_eraseCell_same (m : Memory) (k : Nat) : (Memory.eraseCell m k).read k = Config.unlistedByte := by
  induction m with
  | nil => rfl
  | cons cell m ih =>
    obtain ⟨j, w⟩ := cell
    by_cases h : j = k
    · simpa [Memory.eraseCell, h] using ih
    · have h' : k ≠ j := fun e => h e.symm
      simpa [Memory.eraseCell, h, h', Memory.read] using ih

theorem Memory.read_eraseCell_other (m : Memory) {k x : Nat} (h : x ≠ k) :
    (Memory.eraseCell m k).read x = m.read x := by
  induction m with
  | nil => rfl
  | cons cell m ih =>
    obtain ⟨j, w⟩ := cell
    by_cases hj : j = k
    · subst hj
      simpa [Memory.eraseCell, Memory.read, h] using ih
    · by_cases hx : x = j
      · simp [Memory.eraseCell, Memory.read, hj, hx]
      · simpa [Memory.eraseCell, Memory.read, hj, hx] using ih

theorem Memory.read_insertCell_other (m : Memory) {k x : Nat} (v : Byte) (h : x ≠ k) :
    (Memory.insertCell m k v).read x = m.read x := by
  induction m with
  | nil => simp [Memory.insertCell, Memory.read, h]
  | cons cell m ih =>
    obtain ⟨j, w⟩ := cell
    by_cases hk : k < j
    · simp [Memory.insertCell, Memory.read, hk, h]
    · simp [Memory.insertCell, Memory.read, hk, ih]

theorem Memory.read_insertCell_erased (m : Memory) (k : Nat) (v : Byte) :
    (Memory.insertCell (Memory.eraseCell m k) k v).read k = v := by
  induction m with
  | nil => simp [Memory.eraseCell, Memory.insertCell, Memory.read]
  | cons cell m ih =>
    obtain ⟨j, w⟩ := cell
    by_cases hj : j = k
    · simpa [Memory.eraseCell, hj] using ih
    · have hk : k ≠ j := fun e => hj e.symm
      have step : Memory.eraseCell ((j, w) :: m) k = (j, w) :: Memory.eraseCell m k := by
        simp [Memory.eraseCell, hj]
      by_cases lt : k < j
      · simp [step, Memory.insertCell, Memory.read, lt]
      · simp [step, Memory.insertCell, Memory.read, lt, hk, ih]

/-- A read after a write to the same address gives the byte written. -/
theorem Memory.read_write_same (m : Memory) (k : Nat) (v : Byte) : (m.write k v).read k = v := by
  unfold Memory.write
  split
  · next h => rw [Memory.read_eraseCell_same, h]
  · exact Memory.read_insertCell_erased m k v

/-- A write leaves every other address alone. -/
theorem Memory.read_write_other (m : Memory) {k x : Nat} (v : Byte) (h : x ≠ k) : (m.write k v).read x = m.read x := by
  unfold Memory.write
  split
  · exact Memory.read_eraseCell_other m h
  · rw [Memory.read_insertCell_other _ v h, Memory.read_eraseCell_other m h]

theorem Memory.wf_eraseCell {m : Memory} (h : m.wf) (k : Nat) : Memory.wf (Memory.eraseCell m k) := by
  refine ⟨?_, fun c hc => h.2 c (List.mem_filter.mp hc).1⟩
  exact List.Pairwise.sublist ((List.filter_sublist (l := m)).map _) h.1

theorem Memory.mem_insertCell {m : Memory} {k : Nat} {v : Byte} {c : Host.Cell}
    (h : c ∈ Memory.insertCell m k v) : c = (k, v) ∨ c ∈ m := by
  induction m with
  | nil => simpa [Memory.insertCell] using h
  | cons cell m ih =>
    obtain ⟨j, w⟩ := cell
    unfold Memory.insertCell at h
    split at h
    · simpa using h
    · rcases List.mem_cons.mp h with h | h
      · exact .inr (by simp [h])
      · exact (ih h).imp_right (List.mem_cons_of_mem _)

theorem Memory.sorted_insertCell {m : Memory} {k : Nat} {v : Byte}
    (h : (m.map (fun c => c.1)).Pairwise (· < ·)) (hk : ∀ c ∈ m, c.1 ≠ k) :
    ((Memory.insertCell m k v).map (fun c => c.1)).Pairwise (· < ·) := by
  induction m with
  | nil => simp [Memory.insertCell]
  | cons cell m ih =>
    obtain ⟨j, w⟩ := cell
    have hm := List.pairwise_cons.mp h
    have hj : j ≠ k := hk (j, w) (by simp)
    unfold Memory.insertCell
    split
    · next lt =>
      refine List.pairwise_cons.mpr ⟨fun x hx => ?_, h⟩
      rcases List.mem_cons.mp hx with hx | hx
      · simpa [hx] using lt
      · exact Nat.lt_trans lt (hm.1 x hx)
    · next ge =>
      refine List.pairwise_cons.mpr ⟨fun x hx => ?_, ih hm.2 (fun c hc => hk c (List.mem_cons_of_mem _ hc))⟩
      obtain ⟨c, hc, rfl⟩ := List.mem_map.mp hx
      rcases Memory.mem_insertCell hc with rfl | hc
      · show j < k
        omega
      · exact hm.1 _ (List.mem_map_of_mem hc)

/-- A write inside the address space keeps the canonical form. -/
theorem Memory.wf_write {m : Memory} (h : m.wf) {k : Nat} (hk : k < 65536) (v : Byte) : Memory.wf (m.write k v) := by
  have he := Memory.wf_eraseCell h k
  unfold Memory.write
  split
  · exact he
  · next hv =>
    refine ⟨Memory.sorted_insertCell he.1 ?_, fun c hc => ?_⟩
    · intro c hc
      simpa using (List.mem_filter.mp hc).2
    · rcases Memory.mem_insertCell hc with rfl | hc
      · exact ⟨hk, hv⟩
      · exact he.2 c hc

/-! ## The bytes a bus holds -/

@[simp] theorem BusState.peek_poke_same (bus : BusState) (addr : Word) (v : Byte) : (bus.poke addr v).peek addr = v :=
  Memory.read_write_same bus.mem addr.toNat v

theorem BusState.peek_poke (bus : BusState) (addr x : Word) (v : Byte) :
    (bus.poke addr v).peek x = if x = addr then v else bus.peek x := by
  split
  · next h => subst h; exact BusState.peek_poke_same bus x v
  · next h => exact Memory.read_write_other bus.mem v (fun e => h (BitVec.eq_of_toNat_eq e))

theorem BusState.wf_poke {bus : BusState} (h : Memory.wf bus.mem) (addr : Word) (v : Byte) :
    Memory.wf (bus.poke addr v).mem :=
  Memory.wf_write h addr.isLt v

theorem BusState.react_keeps (r : Config.Reaction) (bus : BusState) :
    (bus.react r).devices = bus.devices ∧ (Memory.wf bus.mem → Memory.wf (bus.react r).mem) := by
  have fold : ∀ (cs : List (Word × Byte)) (b : BusState),
      (cs.foldl (fun b c => b.poke c.1 c.2) b).devices = b.devices ∧
      (Memory.wf b.mem → Memory.wf (cs.foldl (fun b c => b.poke c.1 c.2) b).mem) := by
    intro cs
    induction cs with
    | nil => exact fun b => ⟨rfl, id⟩
    | cons c cs ih => exact fun b => ⟨(ih _).1, fun h => (ih _).2 (BusState.wf_poke h c.1 c.2)⟩
  exact fold r.stores { bus with device := r.device }

/-! ## Accesses: what each keeps, and what it does at memory -/

/-- A read keeps the windows and the canonical form. -/
theorem BusState.read_keeps (bus : BusState) (addr : Word) :
    (bus.read addr).2.devices = bus.devices ∧ (Memory.wf bus.mem → Memory.wf (bus.read addr).2.mem) := by
  unfold BusState.read
  split
  · exact BusState.react_keeps _ bus
  · exact ⟨rfl, id⟩

/-- A write keeps the windows and the canonical form. -/
theorem BusState.write_keeps (bus : BusState) (addr : Word) (v : Byte) :
    (bus.write addr v).devices = bus.devices ∧ (Memory.wf bus.mem → Memory.wf (bus.write addr v).mem) := by
  unfold BusState.write
  split
  · exact BusState.react_keeps _ bus
  · exact ⟨rfl, fun h => BusState.wf_poke h addr v⟩

/-- Whether a device answers an address depends on the windows only. -/
theorem BusState.isDevice_congr {b c : BusState} (h : b.devices = c.devices) (addr : Word) :
    b.isDevice addr = c.isDevice addr := by
  simp only [BusState.isDevice, h]

@[simp] theorem BusState.isDevice_read (bus : BusState) (addr x : Word) : (bus.read addr).2.isDevice x = bus.isDevice x :=
  BusState.isDevice_congr (BusState.read_keeps bus addr).1 x

@[simp] theorem BusState.isDevice_write (bus : BusState) (addr x : Word) (v : Byte) :
    (bus.write addr v).isDevice x = bus.isDevice x :=
  BusState.isDevice_congr (BusState.write_keeps bus addr v).1 x

@[simp] theorem BusState.isDevice_ack (bus : BusState) (mask : BitVec 5) (x : Word) :
    (bus.ack mask).isDevice x = bus.isDevice x := rfl

/-- Memory answers the byte held, and a read of it does nothing (R52, R55). -/
theorem BusState.read_memory {bus : BusState} {addr : Word} (h : bus.isDevice addr = false) :
    bus.read addr = (bus.peek addr, bus) := by
  simp [BusState.read, h]

/-- Memory keeps what is stored (R52, R55). -/
theorem BusState.write_memory {bus : BusState} {addr : Word} (h : bus.isDevice addr = false) (v : Byte) :
    bus.write addr v = bus.poke addr v := by
  simp [BusState.write, h]

/-- An acknowledge clears the given bits of IF and leaves IE and every other byte alone (R5). -/
theorem BusState.ack_spec (bus : BusState) (mask : BitVec 5) :
    (bus.ack mask).interruptFlag = bus.interruptFlag &&& ~~~mask ∧
    (bus.ack mask).interruptEnable = bus.interruptEnable ∧ ∀ x, x ≠ ifAddr → (bus.ack mask).peek x = bus.peek x := by
  refine ⟨?_, ?_, fun x hx => ?_⟩
  · simp only [BusState.interruptFlag, BusState.ack, BusState.peek_poke_same]
    apply BitVec.eq_of_getLsbD_eq
    intro i hi
    interval_cases i <;> simp
  · simp only [BusState.interruptEnable, BusState.ack, BusState.peek_poke]
    rw [if_neg (by decide)]
  · simp only [BusState.ack, BusState.peek_poke, if_neg hx]

/-! ## The same laws for the state's own reads and writes -/

@[simp] theorem State.peek_poke_same (s : State) (addr : Word) (v : Byte) : (s.poke addr v).peek addr = v :=
  BusState.peek_poke_same s.bus addr v

theorem State.peek_poke (s : State) (addr x : Word) (v : Byte) :
    (s.poke addr v).peek x = if x = addr then v else s.peek x := BusState.peek_poke s.bus addr x v

theorem State.wf_poke {s : State} (h : Memory.wf s.bus.mem) (addr : Word) (v : Byte) : Memory.wf (s.poke addr v).bus.mem :=
  BusState.wf_poke h addr v

theorem State.wf_readByte {s : State} (h : Memory.wf s.bus.mem) (addr : Word) : Memory.wf (s.readByte addr).2.bus.mem :=
  (BusState.read_keeps s.bus addr).2 h

theorem State.wf_writeByte {s : State} (h : Memory.wf s.bus.mem) (addr : Word) (v : Byte) :
    Memory.wf (s.writeByte addr v).bus.mem := (BusState.write_keeps s.bus addr v).2 h

theorem State.wf_ackInterrupt {s : State} (h : Memory.wf s.bus.mem) (m : BitVec 5) :
    Memory.wf (s.ackInterrupt m).bus.mem := BusState.wf_poke h ifAddr _

theorem State.wf_reset : Memory.wf State.reset.bus.mem := by decide

end Sys2Proof.Machine
end

