-- ==== Sys2Proof/Laws/Operands.lean ====
section
/-! SUPPORT. The laws of bytes and pairs, of the register file, and of the flag accessors and flag computations: for each one
what it can do, to be cited instead of unfolding it. -/

namespace Sys2Proof

@[simp] theorem hi8_joinBytes (hi lo : Byte) : hi8 (joinBytes hi lo) = hi := by
  simp only [hi8, joinBytes]
  exact BitVec.extractLsb'_append_eq_left

@[simp] theorem lo8_joinBytes (hi lo : Byte) : lo8 (joinBytes hi lo) = lo := by
  simp only [lo8, joinBytes]
  exact BitVec.extractLsb'_append_eq_right

@[simp] theorem joinBytes_hi8_lo8 (v : Word) : joinBytes (hi8 v) (lo8 v) = v := by
  apply BitVec.eq_of_getLsbD_eq
  intro i hi
  simp only [joinBytes, hi8, lo8, BitVec.getLsbD_append, BitVec.getLsbD_extractLsb']
  by_cases h : i < 8
  · simp [h]
  · have h8 : i - 8 < 8 := by omega
    have hs : 8 + (i - 8) = i := by omega
    simp [h, h8, hs]

theorem toNat_joinBytes (hi lo : Byte) : (joinBytes hi lo).toNat = hi.toNat * 256 + lo.toNat := by
  have h := Nat.shiftLeft_add_eq_or_of_lt lo.isLt hi.toNat
  rw [joinBytes, BitVec.toNat_append, ← h, Nat.shiftLeft_eq]

namespace Machine

/-! ## The register file (R11, R12) -/

@[simp] theorem State.getReg_setReg (s : State) (r q : Reg8) (v : Byte) :
    (s.setReg r v).getReg q = if q = r then v else s.getReg q := by
  cases r <;> cases q <;> rfl

@[simp] theorem State.hl_setHL (s : State) (v : Word) : (s.setHL v).hl = v := joinBytes_hi8_lo8 v

@[simp] theorem State.getRP_setRP_same (s : State) (p : RegPair) (v : Word) : (s.setRP p v).getRP p = v := by
  cases p <;> first | exact joinBytes_hi8_lo8 v | rfl

theorem State.getPair_setPair_same (s : State) {p : StackPair} (h : p ≠ .af) (v : Word) :
    (s.setPair p v).getPair p = v := by
  cases p <;> first | exact joinBytes_hi8_lo8 v | exact absurd rfl h

/-- A write of AF, read back: the flag byte's low four bits are gone (R13). -/
theorem State.af_setPair_af (s : State) (v : Word) : (s.setPair .af v).af = joinBytes (hi8 v) (lo8 v &&& 0xF0) := rfl

/-! ## Flags (R14, R15) -/

theorem getLsbD_putBit (i j : Nat) (hi : i < 8) (v : Option Bool) (w : Byte) :
    (putBit i v w).getLsbD j = if j = i then v.getD (w.getLsbD i) else w.getLsbD j := by
  by_cases hj : j < 8
  · interval_cases i <;> interval_cases j <;> rcases v with _ | _ | _ <;> simp [putBit]
  · have : w.getLsbD j = false := BitVec.getLsbD_of_ge w j (by omega)
    have h2 : (putBit i v w).getLsbD j = false := BitVec.getLsbD_of_ge _ j (by omega)
    have h3 : j ≠ i := by omega
    simp [this, h2, h3]

/-- The flag byte after `flags <- (z, n, h, c)`, bit by bit. -/
theorem getLsbD_putBits (z n h c : Option Bool) (w : Byte) (j : Nat) :
    (putBit 7 z (putBit 6 n (putBit 5 h (putBit 4 c w)))).getLsbD j =
      if j = 7 then z.getD (w.getLsbD 7) else if j = 6 then n.getD (w.getLsbD 6)
      else if j = 5 then h.getD (w.getLsbD 5) else if j = 4 then c.getD (w.getLsbD 4) else w.getLsbD j := by
  simp only [getLsbD_putBit 7 _ (by decide), getLsbD_putBit 6 _ (by decide), getLsbD_putBit 5 _ (by decide),
    getLsbD_putBit 4 _ (by decide)]
  simp

@[simp] theorem State.flagZ_setFlags (s : State) (z n h c : Option Bool) :
    (s.setFlags z n h c).flagZ = z.getD s.flagZ := getLsbD_putBits z n h c s.f 7

@[simp] theorem State.flagN_setFlags (s : State) (z n h c : Option Bool) :
    (s.setFlags z n h c).flagN = n.getD s.flagN := getLsbD_putBits z n h c s.f 6

@[simp] theorem State.flagH_setFlags (s : State) (z n h c : Option Bool) :
    (s.setFlags z n h c).flagH = h.getD s.flagH := getLsbD_putBits z n h c s.f 5

@[simp] theorem State.flagC_setFlags (s : State) (z n h c : Option Bool) :
    (s.setFlags z n h c).flagC = c.getD s.flagC := getLsbD_putBits z n h c s.f 4

/-- A flag write never touches the flag byte's low four bits (R15). -/
@[simp] theorem lowNibble_putBits (z n h c : Option Bool) (w : Byte) :
    putBit 7 z (putBit 6 n (putBit 5 h (putBit 4 c w))) &&& 15#8 = w &&& 15#8 := by
  apply BitVec.eq_of_getLsbD_eq
  intro i hi
  rw [BitVec.getLsbD_and, BitVec.getLsbD_and, getLsbD_putBits]
  interval_cases i <;> simp

/-! ## Flag computations -/

theorem toNat_and_0F (a : Byte) : (a &&& 0x0F).toNat = a.toNat % 16 := by
  simpa using Nat.and_two_pow_sub_one_eq_mod a.toNat 4

/-- What `add8` computes (R101), on integers. -/
theorem add8_spec (a b : Byte) (cin : Bool) :
    (add8 a b cin).res.toNat = (a.toNat + b.toNat + cin.toNat) % 256 ∧
    (add8 a b cin).z = ((add8 a b cin).res == 0) ∧ (add8 a b cin).n = false ∧
    (add8 a b cin).h = decide (a.toNat % 16 + b.toNat % 16 + cin.toNat > 15) ∧
    (add8 a b cin).c = decide (a.toNat + b.toNat + cin.toNat > 255) := by
  refine ⟨?_, rfl, rfl, ?_, rfl⟩
  · simp [add8]
  · simp only [add8, toNat_and_0F]

/-- What `sub8` computes (R102), on integers. -/
theorem sub8_spec (a b : Byte) (cin : Bool) :
    ((sub8 a b cin).res.toNat : Int) = ((a.toNat : Int) - b.toNat - cin.toNat) % 256 ∧
    (sub8 a b cin).z = ((sub8 a b cin).res == 0) ∧ (sub8 a b cin).n = true ∧
    (sub8 a b cin).h = decide (a.toNat % 16 < b.toNat % 16 + cin.toNat) ∧
    (sub8 a b cin).c = decide (a.toNat < b.toNat + cin.toNat) := by
  refine ⟨?_, rfl, rfl, ?_, rfl⟩
  · simp only [sub8, BitVec.toNat_ofInt]
    omega
  · simp only [sub8, toNat_and_0F]

/-- What `add16` computes (R150), on integers. -/
theorem add16_spec (a b : Word) :
    (add16 a b).1 = a + b ∧
    (add16 a b).2.1 = decide (a.toNat % 4096 + b.toNat % 4096 > 4095) ∧
    (add16 a b).2.2 = decide (a.toNat + b.toNat > 65535) := by
  have h : ∀ x : Word, (x &&& 0x0FFF).toNat = x.toNat % 4096 := fun x => by
    simpa using Nat.and_two_pow_sub_one_eq_mod x.toNat 12
  refine ⟨?_, ?_, rfl⟩
  · apply BitVec.eq_of_toNat_eq
    simp [add16]
  · simp only [add16, h]

end Machine

end Sys2Proof
end

