-- ==== Sys2Proof/Laws/Ops.lean ====
section
/-! SUPPORT. What each shared operation of Machine/Ops.lean does, said once: word accesses, push and pop, taking an interrupt,
returning from one, the dispatcher; and that each of them keeps memory in its canonical form. -/

namespace Sys2Proof.Machine

/-! ## Word accesses -/

/-- What a word read does (R42). -/
theorem State.readWord_eq (s : State) (addr : Word) :
    s.readWord addr =
      (let lo := s.bus.read addr
       let hi := lo.2.read (addr + 1)
       (joinBytes hi.1 lo.1,
        { s with bus := hi.2, trace := s.trace ++ [.read addr lo.1, .read (addr + 1) hi.1] })) := by
  simp [State.readWord, State.readByte, State.note]

/-- What a word write does (R43). -/
theorem State.writeWord_eq (s : State) (addr v : Word) :
    s.writeWord addr v =
      { s with
        bus := (s.bus.write addr (lo8 v)).write (addr + 1) (hi8 v)
        trace := s.trace ++ [.write addr (lo8 v), .write (addr + 1) (hi8 v)] } := by
  simp [State.writeWord, State.writeByte, State.note]

theorem State.wf_writeWord {s : State} (h : Memory.wf s.bus.mem) (addr v : Word) :
    Memory.wf (s.writeWord addr v).bus.mem :=
  State.wf_writeByte (State.wf_writeByte h addr (lo8 v)) (addr + 1) (hi8 v)

/-! ## The stack -/

/-- What a push does (R230). -/
theorem State.pushWord_eq (s : State) (v : Word) :
    s.pushWord v =
      { s with
        sp := s.sp - 2
        bus := (s.bus.write (s.sp - 2) (lo8 v)).write (s.sp - 2 + 1) (hi8 v)
        trace := s.trace ++ [.write (s.sp - 2) (lo8 v), .write (s.sp - 2 + 1) (hi8 v)] } := by
  simp only [State.pushWord, State.writeWord_eq]

theorem State.wf_pushWord {s : State} (h : Memory.wf s.bus.mem) (v : Word) : Memory.wf (s.pushWord v).bus.mem :=
  State.wf_writeWord (s := { s with sp := s.sp - 2 }) h (s.sp - 2) v

/-- What a pop does (R231). -/
theorem State.popWord_eq (s : State) :
    s.popWord =
      (let lo := s.bus.read s.sp
       let hi := lo.2.read (s.sp + 1)
       (joinBytes hi.1 lo.1,
        { s with
          sp := s.sp + 2
          bus := hi.2
          trace := s.trace ++ [.read s.sp lo.1, .read (s.sp + 1) hi.1] })) := by
  simp only [State.popWord, State.readWord_eq]

/-- What a return does (R254). -/
theorem State.popPC_eq (s : State) :
    s.popPC =
      (let lo := s.bus.read s.sp
       let hi := lo.2.read (s.sp + 1)
       { s with
         pc := joinBytes hi.1 lo.1
         sp := s.sp + 2
         bus := hi.2
         trace := s.trace ++ [.read s.sp lo.1, .read (s.sp + 1) hi.1] }) := by
  simp only [State.popPC, State.popWord_eq]

/-- A return from an interrupt is a return with IME on (R270). -/
theorem State.returnFromInterrupt_eq (s : State) : s.returnFromInterrupt = { s.popPC with ime := true } := rfl

/-! ## Interrupts -/

/-- What taking an interrupt does (R285 step 3, R286). -/
theorem State.enterInterrupt_eq (s : State) (src : Source) :
    s.enterInterrupt src =
      { s with
        ime := false
        pc := src.vector
        sp := s.sp - 2
        bus := ((s.bus.ack src.mask).write (s.sp - 2) (lo8 s.pc)).write (s.sp - 2 + 1) (hi8 s.pc)
        trace := s.trace ++
          [.ack src.mask, .write (s.sp - 2) (lo8 s.pc), .write (s.sp - 2 + 1) (hi8 s.pc)] } := by
  simp [State.enterInterrupt, State.pushWord_eq, State.ackInterrupt, State.note]

theorem State.wf_enterInterrupt {s : State} (h : Memory.wf s.bus.mem) (src : Source) :
    Memory.wf (s.enterInterrupt src).bus.mem :=
  State.wf_pushWord (State.wf_ackInterrupt (s := { s with ime := false }) h src.mask) s.pc

/-- A wake changes `run_state` and nothing else (R285 step 1, R290). -/
theorem State.wake_eq (s : State) :
    s.wake = { s with runState := if s.interruptPending then .running else s.runState } := by
  unfold State.wake
  cases s.interruptPending
  · rfl
  · cases h : s.runState
    · exact congrArg (fun r => { s with runState := r }) h
    · rfl

/-- The source chosen is in the set, and no source before it is (R283). -/
theorem highestSource_spec {m : BitVec 5} {src : Source} (h : highestSource m = some src) :
    m.getLsbD src.bit = true ∧ ∀ j < src.bit, m.getLsbD j = false := by
  revert m
  cases src <;> decide

/-- There is a source to choose exactly when the set is not empty. -/
theorem highestSource_eq_none {m : BitVec 5} : highestSource m = none ↔ m = 0 := by
  revert m
  decide

/-- Everything a dispatcher call can do (R285): nothing more than the wake, or the entry of the source of highest priority. -/
theorem State.handleInterrupt_cases (s : State) :
    (s.handleInterrupt = (false, s.wake) ∧
      (s.ime = false ∨ s.interruptEnable &&& s.interruptFlag = 0)) ∨
    ∃ src, s.handleInterrupt = (true, s.wake.enterInterrupt src) ∧ s.ime = true ∧
      highestSource (s.interruptEnable &&& s.interruptFlag) = some src := by
  have hi : s.wake.ime = s.ime := by rw [State.wake_eq]
  have he : s.wake.interruptEnable &&& s.wake.interruptFlag = s.interruptEnable &&& s.interruptFlag := by
    rw [State.wake_eq]; rfl
  unfold State.handleInterrupt
  rw [hi, he]
  cases h : s.ime
  · exact .inl ⟨by simp, .inl rfl⟩
  · cases hs : highestSource (s.interruptEnable &&& s.interruptFlag) with
    | none => exact .inl ⟨by simp, .inr (highestSource_eq_none.mp hs)⟩
    | some src => exact .inr ⟨src, by simp, rfl, rfl⟩

end Sys2Proof.Machine
end

