-- ==== Sys2Proof/Laws/Access.lean ====
section
/-! SUPPORT. The laws of the terms in which accesses are stated: what a run of accesses leaves on the bus, and that recording an
instruction's accesses and following the bus through them is all that `Accesses` asks. -/

namespace Sys2Proof.Machine

theorem State.answer_eq (s : State) (addr : Word) : s.answer addr = (s.bus.read addr).1 := rfl

/-- Memory answers the byte held. -/
theorem State.answer_memory {s : State} {addr : Word} (h : s.onMemory addr = true) : s.answer addr = s.peek addr := by
  rw [State.answer_eq, BusState.read_memory (by simpa [State.onMemory] using h)]
  rfl

/-- No access changes which addresses are memory. -/
theorem BusState.isDevice_after (evs : List Event) (x : Word) :
    ∀ bus : BusState, (bus.after evs).isDevice x = bus.isDevice x := by
  induction evs with
  | nil => exact fun _ => rfl
  | cons ev evs ih => cases ev <;> exact fun bus => (ih _).trans (by simp)

/-- The accesses keep the canonical form of the bytes held. -/
theorem BusState.wf_after (evs : List Event) : ∀ bus : BusState, Memory.wf bus.mem → Memory.wf (bus.after evs).mem := by
  induction evs with
  | nil => exact fun _ => id
  | cons ev evs ih =>
    cases ev with
    | read addr v => exact fun bus h => ih _ ((BusState.read_keeps bus addr).2 h)
    | write addr v => exact fun bus h => ih _ ((BusState.write_keeps bus addr v).2 h)
    | ack mask => exact fun bus h => ih _ (BusState.wf_poke h ifAddr _)
    | logIllegal op => exact fun bus h => ih _ h

/-- Accesses to memory, one byte at a time. -/
theorem BusState.peek_after (evs : List Event) (x : Word) :
    ∀ (s : State), (∀ ev ∈ evs, s.touchesMemory ev = true) → (s.bus.after evs).peek x = byteAfter x (s.peek x) evs := by
  induction evs with
  | nil => exact fun _ _ => rfl
  | cons ev evs ih =>
    intro s h
    have hev := h ev (by simp)
    have step : ∀ b : BusState, (∀ a, b.isDevice a = s.bus.isDevice a) →
        (b.after evs).peek x = byteAfter x (b.peek x) evs := fun b hb =>
      ih { s with bus := b } fun ev' hm => by
        have := h ev' (List.mem_cons_of_mem _ hm)
        cases ev' <;> simp_all [State.touchesMemory, State.onMemory]
    cases ev with
    | read addr v =>
      have hd : s.bus.isDevice addr = false := by simpa [State.touchesMemory, State.onMemory] using hev
      simpa [BusState.after, byteAfter, BusState.read_memory hd, State.peek] using step s.bus fun _ => rfl
    | write addr v =>
      have hd : s.bus.isDevice addr = false := by simpa [State.touchesMemory, State.onMemory] using hev
      simpa [BusState.after, byteAfter, BusState.write_memory hd, BusState.peek_poke, State.peek] using
        step (s.bus.poke addr v) fun _ => rfl
    | ack mask =>
      have e := step (s.bus.ack mask) fun _ => rfl
      have hp : (s.bus.ack mask).peek x =
          if x = ifAddr then s.bus.peek x &&& ~~~(mask.setWidth 8) else s.bus.peek x := by
        rw [BusState.ack, BusState.peek_poke]
        split
        · next hx => rw [hx]
        · rfl
      rw [hp] at e
      exact e
    | logIllegal op => exact step s.bus fun _ => rfl

/-- Following the trace and the bus is enough. -/
theorem Accesses.of_bus {s t : State} {evs : List Event} (htrace : t.trace = s.trace ++ evs)
    (hbus : t.bus = s.bus.after evs) : Accesses s t evs :=
  ⟨htrace, hbus, fun h x => by rw [← BusState.peek_after evs x s h, ← hbus]; rfl⟩

/-- One byte stored. -/
theorem Stored.of_bus {s t : State} {addr : Word} {v : Byte} (h : t.bus = s.bus.write addr v) : Stored s t addr v :=
  fun hm => by
    rw [State.peek, h, BusState.write_memory (by simpa [State.onMemory] using hm), BusState.peek_poke_same]

/-- A word stored. -/
theorem StoredWord.of_bus {s t : State} {addr v : Word} (b : BusState) (hd : ∀ x, b.isDevice x = s.bus.isDevice x)
    (h : t.bus = (b.write addr (lo8 v)).write (addr + 1) (hi8 v)) : StoredWord s t addr v := by
  intro h0 h1
  have d0 : b.isDevice addr = false := by rw [hd]; simpa [State.onMemory] using h0
  have d1 : (b.write addr (lo8 v)).isDevice (addr + 1) = false := by
    rw [BusState.isDevice_write, hd]; simpa [State.onMemory] using h1
  have ne : addr ≠ addr + 1 := by
    intro e
    have := congrArg BitVec.toNat e
    simp only [BitVec.toNat_add] at this
    have := addr.isLt
    simp at *
  rw [State.peek, State.peek, h, BusState.write_memory d1, BusState.write_memory d0]
  simp only [BusState.peek_poke, if_neg ne, if_true]
  constructor
  · simp [lo8, BitVec.extractLsb'_toNat]
  · have := v.isLt
    simp [hi8, BitVec.extractLsb'_toNat, Nat.shiftRight_eq_div_pow]
    omega

/-- Reads change the bus and the record, nothing else. -/
theorem State.readBytes_eq (addrs : List Word) : ∀ s : State,
    (s.readBytes addrs).2 = { s with bus := (s.readBytes addrs).2.bus, trace := (s.readBytes addrs).2.trace } := by
  induction addrs with
  | nil => exact fun _ => rfl
  | cons addr addrs ih => exact fun s => ih (s.readByte addr).2

/-- The canonical form is kept by reads. -/
theorem State.wf_readBytes (addrs : List Word) : ∀ {s : State}, Memory.wf s.bus.mem →
    Memory.wf (s.readBytes addrs).2.bus.mem := by
  induction addrs with
  | nil => exact id
  | cons addr addrs ih => exact fun h => ih (State.wf_readByte h addr)

end Sys2Proof.Machine
end

