-- ==== Sys2Proof/Laws/PerInstr.lean ====
section
/-! SUPPORT. The statement made once per constructor of Instr: an instruction's encoding is as long as its first byte says
(R73: the length is a function of the first byte alone), with its lemma for each constructor. -/

namespace Sys2Proof.Laws.OpcodeLength

/-- The encoding of a well-formed instruction has the length its first byte gives. -/
def Statement (i : Instr) : Prop := WellFormed i = true → (encode i).length = opLength ((encode i).headD 0)

/-- From the encoding's first byte, the rest of it, and the length. -/
theorem statement_of {i : Instr} {op : Byte} {rest : List Byte} (n : Nat) (h : encode i = op :: rest)
    (hr : rest.length + 1 = n) (hn : opLength op = n) : Statement i := by
  intro _
  rw [h]
  exact hr.trans hn.symm

theorem nop : Statement .nop := statement_of 1 rfl rfl (by decide)

theorem ldPairNN (p : RegPair) (nn : Word) : Statement (.ldPairNN p nn) := by
  cases p <;> exact statement_of 3 rfl rfl (by decide)

theorem ldAtBCA : Statement .ldAtBCA := statement_of 1 rfl rfl (by decide)

theorem ldAtDEA : Statement .ldAtDEA := statement_of 1 rfl rfl (by decide)

theorem ldAtHLIncA : Statement .ldAtHLIncA := statement_of 1 rfl rfl (by decide)

theorem ldAtHLDecA : Statement .ldAtHLDecA := statement_of 1 rfl rfl (by decide)

theorem incPair (p : RegPair) : Statement (.incPair p) := by
  cases p <;> exact statement_of 1 rfl rfl (by decide)

theorem incR (r : Reg8) : Statement (.incR r) := by
  cases r <;> exact statement_of 1 rfl rfl (by decide)

theorem incAtHL : Statement .incAtHL := statement_of 1 rfl rfl (by decide)

theorem decR (r : Reg8) : Statement (.decR r) := by
  cases r <;> exact statement_of 1 rfl rfl (by decide)

theorem decAtHL : Statement .decAtHL := statement_of 1 rfl rfl (by decide)

theorem ldRN (r : Reg8) (n : Byte) : Statement (.ldRN r n) := by
  cases r <;> exact statement_of 2 rfl rfl (by decide)

theorem ldAtHLN (n : Byte) : Statement (.ldAtHLN n) := statement_of 2 rfl rfl (by decide)

theorem rlca : Statement .rlca := statement_of 1 rfl rfl (by decide)

theorem ldAtNNSP (nn : Word) : Statement (.ldAtNNSP nn) := statement_of 3 rfl rfl (by decide)

theorem addHLPair (p : RegPair) : Statement (.addHLPair p) := by
  cases p <;> exact statement_of 1 rfl rfl (by decide)

theorem ldAAtBC : Statement .ldAAtBC := statement_of 1 rfl rfl (by decide)

theorem ldAAtDE : Statement .ldAAtDE := statement_of 1 rfl rfl (by decide)

theorem ldAAtHLInc : Statement .ldAAtHLInc := statement_of 1 rfl rfl (by decide)

theorem ldAAtHLDec : Statement .ldAAtHLDec := statement_of 1 rfl rfl (by decide)

theorem decPair (p : RegPair) : Statement (.decPair p) := by
  cases p <;> exact statement_of 1 rfl rfl (by decide)

theorem rrca : Statement .rrca := statement_of 1 rfl rfl (by decide)

theorem stop : Statement .stop := statement_of 1 rfl rfl (by decide)

theorem rla : Statement .rla := statement_of 1 rfl rfl (by decide)

theorem jrE (e : Byte) : Statement (.jrE e) := statement_of 2 rfl rfl (by decide)

theorem rra : Statement .rra := statement_of 1 rfl rfl (by decide)

theorem jrCond (cc : Cond) (e : Byte) : Statement (.jrCond cc e) := by
  cases cc <;> exact statement_of 2 rfl rfl (by decide)

theorem daa : Statement .daa := statement_of 1 rfl rfl (by decide)

theorem cpl : Statement .cpl := statement_of 1 rfl rfl (by decide)

theorem scf : Statement .scf := statement_of 1 rfl rfl (by decide)

theorem ccf : Statement .ccf := statement_of 1 rfl rfl (by decide)

theorem ldRR (dst src : Reg8) : Statement (.ldRR dst src) := by
  cases dst <;> cases src <;> exact statement_of 1 rfl rfl (by decide)

theorem ldRAtHL (r : Reg8) : Statement (.ldRAtHL r) := by
  cases r <;> exact statement_of 1 rfl rfl (by decide)

theorem ldAtHLR (r : Reg8) : Statement (.ldAtHLR r) := by
  cases r <;> exact statement_of 1 rfl rfl (by decide)

theorem halt : Statement .halt := statement_of 1 rfl rfl (by decide)

theorem addR (r : Reg8) : Statement (.addR r) := by
  cases r <;> exact statement_of 1 rfl rfl (by decide)

theorem addAtHL : Statement .addAtHL := statement_of 1 rfl rfl (by decide)

theorem addN (n : Byte) : Statement (.addN n) := statement_of 2 rfl rfl (by decide)

theorem adcR (r : Reg8) : Statement (.adcR r) := by
  cases r <;> exact statement_of 1 rfl rfl (by decide)

theorem adcAtHL : Statement .adcAtHL := statement_of 1 rfl rfl (by decide)

theorem adcN (n : Byte) : Statement (.adcN n) := statement_of 2 rfl rfl (by decide)

theorem subR (r : Reg8) : Statement (.subR r) := by
  cases r <;> exact statement_of 1 rfl rfl (by decide)

theorem subAtHL : Statement .subAtHL := statement_of 1 rfl rfl (by decide)

theorem subN (n : Byte) : Statement (.subN n) := statement_of 2 rfl rfl (by decide)

theorem sbcR (r : Reg8) : Statement (.sbcR r) := by
  cases r <;> exact statement_of 1 rfl rfl (by decide)

theorem sbcAtHL : Statement .sbcAtHL := statement_of 1 rfl rfl (by decide)

theorem sbcN (n : Byte) : Statement (.sbcN n) := statement_of 2 rfl rfl (by decide)

theorem andR (r : Reg8) : Statement (.andR r) := by
  cases r <;> exact statement_of 1 rfl rfl (by decide)

theorem andAtHL : Statement .andAtHL := statement_of 1 rfl rfl (by decide)

theorem andN (n : Byte) : Statement (.andN n) := statement_of 2 rfl rfl (by decide)

theorem xorR (r : Reg8) : Statement (.xorR r) := by
  cases r <;> exact statement_of 1 rfl rfl (by decide)

theorem xorAtHL : Statement .xorAtHL := statement_of 1 rfl rfl (by decide)

theorem xorN (n : Byte) : Statement (.xorN n) := statement_of 2 rfl rfl (by decide)

theorem orR (r : Reg8) : Statement (.orR r) := by
  cases r <;> exact statement_of 1 rfl rfl (by decide)

theorem orAtHL : Statement .orAtHL := statement_of 1 rfl rfl (by decide)

theorem orN (n : Byte) : Statement (.orN n) := statement_of 2 rfl rfl (by decide)

theorem cpR (r : Reg8) : Statement (.cpR r) := by
  cases r <;> exact statement_of 1 rfl rfl (by decide)

theorem cpAtHL : Statement .cpAtHL := statement_of 1 rfl rfl (by decide)

theorem cpN (n : Byte) : Statement (.cpN n) := statement_of 2 rfl rfl (by decide)

theorem retCond (cc : Cond) : Statement (.retCond cc) := by
  cases cc <;> exact statement_of 1 rfl rfl (by decide)

theorem popPair (p : StackPair) : Statement (.popPair p) := by
  cases p <;> exact statement_of 1 rfl rfl (by decide)

theorem popAF : Statement .popAF := statement_of 1 rfl rfl (by decide)

theorem jpCond (cc : Cond) (nn : Word) : Statement (.jpCond cc nn) := by
  cases cc <;> exact statement_of 3 rfl rfl (by decide)

theorem jpNN (nn : Word) : Statement (.jpNN nn) := statement_of 3 rfl rfl (by decide)

theorem callCond (cc : Cond) (nn : Word) : Statement (.callCond cc nn) := by
  cases cc <;> exact statement_of 3 rfl rfl (by decide)

theorem pushPair (p : StackPair) : Statement (.pushPair p) := by
  cases p <;> exact statement_of 1 rfl rfl (by decide)

theorem rst (t : BitVec 3) : Statement (.rst t) :=
  have h : ∀ t : BitVec 3, opLength (0xC7 + 8 * bitIndex t) = 1 := by decide
  fun _ => (h t).symm

theorem ret : Statement .ret := statement_of 1 rfl rfl (by decide)

theorem prefixCB (cb : Byte) : Statement (.prefixCB cb) := statement_of 2 rfl rfl (by decide)

theorem callNN (nn : Word) : Statement (.callNN nn) := statement_of 3 rfl rfl (by decide)

theorem reti : Statement .reti := statement_of 1 rfl rfl (by decide)

theorem ldhAtNA (n : Byte) : Statement (.ldhAtNA n) := statement_of 2 rfl rfl (by decide)

theorem ldhAtCA : Statement .ldhAtCA := statement_of 1 rfl rfl (by decide)

theorem addSPE (e : Byte) : Statement (.addSPE e) := statement_of 2 rfl rfl (by decide)

theorem jpHL : Statement .jpHL := statement_of 1 rfl rfl (by decide)

theorem ldAtNNA (nn : Word) : Statement (.ldAtNNA nn) := statement_of 3 rfl rfl (by decide)

theorem ldhAAtN (n : Byte) : Statement (.ldhAAtN n) := statement_of 2 rfl rfl (by decide)

theorem ldhAAtC : Statement .ldhAAtC := statement_of 1 rfl rfl (by decide)

theorem di : Statement .di := statement_of 1 rfl rfl (by decide)

theorem ldHLSPE (e : Byte) : Statement (.ldHLSPE e) := statement_of 2 rfl rfl (by decide)

theorem ldSPHL : Statement .ldSPHL := statement_of 1 rfl rfl (by decide)

theorem ldAAtNN (nn : Word) : Statement (.ldAAtNN nn) := statement_of 3 rfl rfl (by decide)

theorem ei : Statement .ei := statement_of 1 rfl rfl (by decide)

theorem illegal (op : Byte) : Statement (.illegal op) :=
  have h : ∀ op ∈ Config.illegalSet, opLength op = 1 := by decide
  fun w => (h op (List.contains_iff_mem.mp w)).symm

theorem rlcR (r : Reg8) : Statement (.rlcR r) := statement_of 2 rfl rfl (by decide)

theorem rlcAtHL : Statement .rlcAtHL := statement_of 2 rfl rfl (by decide)

theorem rrcR (r : Reg8) : Statement (.rrcR r) := statement_of 2 rfl rfl (by decide)

theorem rrcAtHL : Statement .rrcAtHL := statement_of 2 rfl rfl (by decide)

theorem rlR (r : Reg8) : Statement (.rlR r) := statement_of 2 rfl rfl (by decide)

theorem rlAtHL : Statement .rlAtHL := statement_of 2 rfl rfl (by decide)

theorem rrR (r : Reg8) : Statement (.rrR r) := statement_of 2 rfl rfl (by decide)

theorem rrAtHL : Statement .rrAtHL := statement_of 2 rfl rfl (by decide)

theorem slaR (r : Reg8) : Statement (.slaR r) := statement_of 2 rfl rfl (by decide)

theorem slaAtHL : Statement .slaAtHL := statement_of 2 rfl rfl (by decide)

theorem sraR (r : Reg8) : Statement (.sraR r) := statement_of 2 rfl rfl (by decide)

theorem sraAtHL : Statement .sraAtHL := statement_of 2 rfl rfl (by decide)

theorem swapR (r : Reg8) : Statement (.swapR r) := statement_of 2 rfl rfl (by decide)

theorem swapAtHL : Statement .swapAtHL := statement_of 2 rfl rfl (by decide)

theorem srlR (r : Reg8) : Statement (.srlR r) := statement_of 2 rfl rfl (by decide)

theorem srlAtHL : Statement .srlAtHL := statement_of 2 rfl rfl (by decide)

theorem bitR (b : BitVec 3) (r : Reg8) : Statement (.bitR b r) := statement_of 2 rfl rfl (by decide)

theorem bitAtHL (b : BitVec 3) : Statement (.bitAtHL b) := statement_of 2 rfl rfl (by decide)

theorem resR (b : BitVec 3) (r : Reg8) : Statement (.resR b r) := statement_of 2 rfl rfl (by decide)

theorem resAtHL (b : BitVec 3) : Statement (.resAtHL b) := statement_of 2 rfl rfl (by decide)

theorem setR (b : BitVec 3) (r : Reg8) : Statement (.setR b r) := statement_of 2 rfl rfl (by decide)

theorem setAtHL (b : BitVec 3) : Statement (.setAtHL b) := statement_of 2 rfl rfl (by decide)

end Sys2Proof.Laws.OpcodeLength
end

