-- ==== Sys2Proof/Laws/Step.lean ====
section
/-! SUPPORT. The laws of fetching and of the host's round: what the fetch can do, that no meaning stops, and that the parts of a
step around an instruction keep the machine's invariant. -/

namespace Sys2Proof.Machine

/-! ## Fetching -/

/-- What the opcode fetch does (R72). -/
theorem State.fetchOpcode_eq (s : State) :
    s.fetchOpcode = (s.answer s.pc,
      { (s.readByte s.pc).2 with pc := if s.haltBug then s.pc else s.pc + 1, haltBug := false }) := by
  unfold State.fetchOpcode
  cases h : s.haltBug
  · simp [State.answer, State.readByte, State.note, h]
  · simp [State.answer, State.readByte, State.note]

/-- What a fetch of one operand byte does. -/
theorem State.fetch8_eq (s : State) : s.fetch8 = (s.answer s.pc, { (s.readByte s.pc).2 with pc := s.pc + 1 }) := rfl

/-- An instruction has 1, 2 or 3 bytes (R73). -/
theorem opLength_cases (op : Byte) : opLength op = 1 ∨ opLength op = 2 ∨ opLength op = 3 := by
  revert op
  decide +kernel

/-- What the breakpoint compare does (R300). -/
theorem State.checkBreakpoint_eq (s : State) :
    s.checkBreakpoint = { s with paused := s.paused || s.breakpoint == some s.pc } := by
  unfold State.checkBreakpoint
  by_cases h : s.breakpoint = some s.pc
  · rw [if_pos h, beq_iff_eq.mpr h, Bool.or_true]
  · rw [if_neg h, beq_eq_false_iff_ne.mpr h, Bool.or_false]

/-- What the soft-break test does (R300). -/
theorem State.checkSoftBreak_eq (s : State) (op : Byte) :
    s.checkSoftBreak op = { s with paused := s.paused || (s.softBreak && op == 0x40) } := by
  unfold State.checkSoftBreak
  cases h : s.softBreak && op == 0x40
  · rw [Bool.or_false]; rfl
  · rw [Bool.or_true]; rfl

/-- The whole fetch of a running core (R70, R72, R73, R300): the instruction, and the state it executes in. -/
theorem State.fetchInstr_eq (s : State) :
    s.fetchInstr =
      (let p := if s.haltBug then s.pc else s.pc + 1
       let op := s.answer s.pc
       let n1 := (s.readByte s.pc).2.answer p
       let n2 := ((s.readByte s.pc).2.readByte p).2.answer (p + 1)
       (decodeOp op (if opLength op = 1 then 0 else n1) (if opLength op = 3 then n2 else 0),
        { (s.readBytes ([s.pc, p, p + 1].take (opLength op))).2 with
          pc := p + BitVec.ofNat 16 (opLength op - 1)
          haltBug := false
          paused := s.paused || s.breakpoint == some s.pc || (s.softBreak && op == 0x40) })) := by
  have hop : s.checkBreakpoint.answer s.checkBreakpoint.pc = s.answer s.pc := by
    rw [State.checkBreakpoint_eq]; rfl
  simp only [State.fetchInstr, State.fetchOpcode_eq, State.checkSoftBreak_eq, hop]
  rw [State.checkBreakpoint_eq]
  dsimp only [State.readByte_pc, State.readByte_haltBug]
  generalize (if s.haltBug then s.pc else s.pc + 1) = p
  generalize hq : s.answer s.pc = op
  rcases opLength_cases op with h | h | h
  · simp [State.fetchOperands, h, State.readBytes, State.readByte, State.note]
  · simp [State.fetchOperands, h, State.fetch8_eq, State.readBytes, State.answer, State.readByte, State.note]
  · simp [State.fetchOperands, h, State.fetch8_eq, State.readBytes, State.answer, State.readByte, State.note,
      BitVec.add_assoc]

/-- A running core fetches. -/
theorem State.prepare_running {s : State} (h : s.runState = .running) :
    s.prepare = (some s.fetchInstr.1, s.fetchInstr.2) := by
  simp only [State.prepare, h]

/-- A halted core fetches nothing (R70 step 1). -/
theorem State.prepare_halted {s : State} (h : s.runState = .halted) : s.prepare = (none, s.setCycles cycHalted) := by
  simp only [State.prepare, h]

/-! ## The invariant around an instruction -/

theorem State.Inv_fetchInstr {s : State} (h : s.Inv) : s.fetchInstr.2.Inv := by
  rw [State.fetchInstr_eq]
  refine ⟨?_, State.wf_readBytes _ h.2.1, fun e => by simp at e⟩
  dsimp only
  rw [State.readBytes_eq]
  exact h.1

/-- A wake keeps the invariant. -/
theorem State.Inv_wake {s : State} (h : s.Inv) : s.wake.Inv := by
  rw [State.wake_eq]
  refine ⟨h.1, h.2.1, fun e => ⟨?_, (h.2.2 e).2⟩⟩
  simp [(h.2.2 e).1]

/-- A dispatcher call keeps the invariant. -/
theorem State.Inv_handleInterrupt {s : State} (h : s.Inv) : s.handleInterrupt.2.Inv := by
  have hw := State.Inv_wake h
  rcases State.handleInterrupt_cases s with ⟨e, -⟩ | ⟨src, e, hi, -⟩
  · rwa [e]
  · rw [e, State.enterInterrupt_eq]
    refine ⟨hw.1, State.wf_enterInterrupt hw.2.1 src, fun hb => ?_⟩
    have : s.wake.ime = true := by rw [State.wake_eq]; exact hi
    exact absurd (hw.2.2 hb).2 (by simp [this])

/-- An action of the environment keeps the invariant. -/
theorem State.Inv_applyEnv {s : State} (h : s.Inv) (act : EnvAction) : (s.applyEnv act).Inv := by
  cases act with
  | busWrite addr v => exact ⟨h.1, State.wf_poke h.2.1 addr v, h.2.2⟩
  | request src => exact ⟨h.1, State.wf_poke h.2.1 ifAddr _, h.2.2⟩
  | setDevice device => exact h
  | setPause b => exact h
  | setBreakpoint addr => exact h
  | setSoftBreak b => exact h

theorem State.Inv_applyEnvs (acts : List EnvAction) : ∀ {s : State}, s.Inv → (s.applyEnvs acts).Inv := by
  induction acts with
  | nil => exact id
  | cons act acts ih => exact fun h => ih (State.Inv_applyEnv h act)

/-- A gap between two calls keeps the invariant. -/
theorem State.Inv_envGap {s : State} (h : s.Inv) : s.envGap.Inv := by
  unfold State.envGap
  split
  · exact h
  · exact State.Inv_applyEnvs _ h

/-- What the environment does before a round's `step` keeps the invariant. -/
theorem State.Inv_beginRound {s : State} (h : s.Inv) : s.beginRound.Inv := State.Inv_envGap h

theorem State.Inv_hostTick {s : State} (h : s.Inv) : s.hostTick.Inv := by
  have hd := State.Inv_handleInterrupt (State.Inv_envGap (s := s.charge 1) h)
  unfold State.hostTick
  dsimp only
  split
  · exact hd
  · exact hd

/-- The host's ticks of a round keep the invariant. -/
theorem State.Inv_hostTicks (n : Nat) : ∀ {s : State}, s.Inv → (s.hostTicks n).Inv := by
  induction n with
  | zero => exact id
  | succ n ih => exact fun h => ih (State.Inv_hostTick h)

end Sys2Proof.Machine
end

