-- ==== Sys2Proof/Laws/Ticks.lean ====
section
/-! SUPPORT. What the tick table answers, said once: the defaults where no entry is listed, the entry where one is, and that the
prefix tells the two tables apart. -/

namespace Sys2Proof.Machine

/-- Only the table counts. -/
theorem State.ticksAt_congr {s t : State} (h : t.ticks = s.ticks) (bytes : List Byte) (taken : Bool) (dflt : Byte) :
    t.ticksAt bytes taken dflt = s.ticksAt bytes taken dflt := by
  simp only [State.ticksAt, h]

/-- The two things a look-up can answer (R337). -/
theorem State.ticksAt_cases (s : State) (bytes : List Byte) (taken : Bool) (dflt : Byte) :
    (tickEntry s.ticks bytes = none ∧ s.ticksAt bytes taken dflt = dflt) ∨
    ∃ e, tickEntry s.ticks bytes = some e ∧
      s.ticksAt bytes taken dflt = if taken then e.taken else e.notTaken := by
  unfold State.ticksAt
  split
  · next e h => exact .inr ⟨e, h, rfl⟩
  · next h => exact .inl ⟨h, rfl⟩

/-- The table of R336 lists nothing. -/
theorem tickEntry_defaultTable (bytes : List Byte) : tickEntry Config.defaultTable bytes = none := by
  cases bytes with
  | nil => rfl
  | cons op rest => simp [tickEntry, Config.defaultTable]

/-- With the table of R336 the answer is the default. -/
theorem State.ticksAt_default {s : State} (h : s.ticks = Config.defaultTable) (bytes : List Byte) (taken : Bool)
    (dflt : Byte) : s.ticksAt bytes taken dflt = dflt := by
  simp only [State.ticksAt, h, tickEntry_defaultTable]

/-- Operand bytes do not count. -/
theorem State.ticksAt_primary (s : State) {op : Byte} (h : op ≠ 0xCB) (rest : List Byte) (taken : Bool) (dflt : Byte) :
    s.ticksAt (op :: rest) taken dflt = s.ticksAt [op] taken dflt := by
  simp only [State.ticksAt, tickEntry, if_neg h]

end Sys2Proof.Machine
end

