-- ==== Sys2Proof/Tests/Slice0.lean ====
section
/-! SUPPORT. The model's own tests: ill-formed terms, words decoded, the spec's worked examples (the rules' "Example" clauses
and 95_test_vectors.md) run one step each, and a witness for the hypotheses of every statement. -/

namespace Sys2Proof.Tests

open Sys2Proof.Machine

-- One theorem after another: elaborated side by side, these small evaluations ask for a thread each.
set_option Elab.async false

/-- The start state of the spec's vectors (95_test_vectors.md), with the instruction's bytes at 0x0100. `cycles` starts at a
value no instruction returns. -/
def start (bytes : List Byte) : State :=
  { State.reset.pokeBytes 0x0100 bytes with sp := 0xFFFE, pc := 0x0100, cycles := 0xFF }

/-- What is seen after one step of the core. -/
def look {α : Type} (s : State) (see : State → α) : Option α :=
  match cpuStep s with
  | .next t => some (see t)
  | .fault _ => none
  | .refused _ => none

/-- What is seen after one instruction's execution. -/
def look1 {α : Type} (i : Instr) (s : State) (see : State → α) : Option α :=
  match exec i s with
  | .next t => some (see t)
  | .fault _ => none
  | .refused _ => none

/-- What is seen after `k` rounds. -/
def rounds {α : Type} (k : Nat) (s : State) (see : State → α) : Option α :=
  match core.run k s with
  | .next t => some (see t)
  | .fault _ => none
  | .refused _ => none

/-! ## WellFormed: one ill-formed term for each check -/

/-- 0x00 is `NOP`, not in `ILLEGAL_SET` (R83). -/
theorem test_wf_illegal : WellFormed (.illegal 0x00) = false := by decide

theorem test_wf_illegal_member : WellFormed (.illegal 0xD3) = true := by decide

/-- AF has a row of its own (R237, R238). -/
theorem test_wf_pop_af : WellFormed (.popPair .af) = false := by decide

/-- `CB 37` is `SWAP A` (R271). -/
theorem test_wf_prefix : WellFormed (.prefixCB 0x37) = false := by decide


/-! ## Decoding: words written out from the rules' encodings -/

theorem test_decode_misc :
    ∀ w ∈ ([([0x00], .nop),
      ([0x10], .stop),
      ([0x76], .halt),
      ([0xF3], .di),
      ([0xFB], .ei),
      ([0xD9], .reti),
      ([0xFC], .illegal 0xFC)] : List (List Byte × Instr)),
      decode w.1 = .ok (w.2, []) ∧ encode w.2 = w.1 := by
  decide +kernel

theorem test_decode_load8 :
    ∀ w ∈ ([([0x41], .ldRR .b .c),
      ([0x7D], .ldRR .a .l),
      ([0x3E, 0x99], .ldRN .a 0x99),
      ([0x26, 0x01], .ldRN .h 0x01),
      ([0x5E], .ldRAtHL .e),
      ([0x77], .ldAtHLR .a),
      ([0x36, 0x99], .ldAtHLN 0x99),
      ([0x0A], .ldAAtBC),
      ([0x1A], .ldAAtDE),
      ([0x02], .ldAtBCA),
      ([0x12], .ldAtDEA),
      ([0xFA, 0x34, 0x12], .ldAAtNN 0x1234),
      ([0xEA, 0x00, 0xC1], .ldAtNNA 0xC100),
      ([0xF2], .ldhAAtC),
      ([0xE2], .ldhAtCA),
      ([0xF0, 0x34], .ldhAAtN 0x34),
      ([0xE0, 0x0F], .ldhAtNA 0x0F),
      ([0x2A], .ldAAtHLInc),
      ([0x3A], .ldAAtHLDec),
      ([0x22], .ldAtHLIncA),
      ([0x32], .ldAtHLDecA)] : List (List Byte × Instr)),
      decode w.1 = .ok (w.2, []) ∧ encode w.2 = w.1 := by
  decide +kernel

theorem test_decode_load16 :
    ∀ w ∈ ([([0x01, 0x34, 0x12], .ldPairNN .bc 0x1234),
      ([0x31, 0xFE, 0xFF], .ldPairNN .sp 0xFFFE),
      ([0x08, 0x00, 0xC1], .ldAtNNSP 0xC100),
      ([0xF9], .ldSPHL),
      ([0xF8, 0xFF], .ldHLSPE 0xFF),
      ([0xC5], .pushPair .bc),
      ([0xF5], .pushPair .af),
      ([0xD1], .popPair .de),
      ([0xF1], .popAF)] : List (List Byte × Instr)),
      decode w.1 = .ok (w.2, []) ∧ encode w.2 = w.1 := by
  decide +kernel

theorem test_decode_alu8 :
    ∀ w ∈ ([([0x80], .addR .b),
      ([0x86], .addAtHL),
      ([0xC6, 0x38], .addN 0x38),
      ([0x8F], .adcR .a),
      ([0x8E], .adcAtHL),
      ([0xCE, 0xFF], .adcN 0xFF),
      ([0x91], .subR .c),
      ([0x96], .subAtHL),
      ([0xD6, 0x40], .subN 0x40),
      ([0x9A], .sbcR .d),
      ([0x9E], .sbcAtHL),
      ([0xDE, 0x3A], .sbcN 0x3A),
      ([0xA3], .andR .e),
      ([0xA6], .andAtHL),
      ([0xE6, 0x00], .andN 0x00),
      ([0xAF], .xorR .a),
      ([0xAE], .xorAtHL),
      ([0xEE, 0xFF], .xorN 0xFF),
      ([0xB4], .orR .h),
      ([0xB6], .orAtHL),
      ([0xF6, 0x00], .orN 0x00),
      ([0xBD], .cpR .l),
      ([0xBE], .cpAtHL),
      ([0xFE, 0x3C], .cpN 0x3C)] : List (List Byte × Instr)),
      decode w.1 = .ok (w.2, []) ∧ encode w.2 = w.1 := by
  decide +kernel

theorem test_decode_alu8_unary :
    ∀ w ∈ ([([0x3C], .incR .a),
      ([0x34], .incAtHL),
      ([0x05], .decR .b),
      ([0x35], .decAtHL),
      ([0x27], .daa),
      ([0x2F], .cpl),
      ([0x37], .scf),
      ([0x3F], .ccf),
      ([0x07], .rlca),
      ([0x0F], .rrca),
      ([0x17], .rla),
      ([0x1F], .rra)] : List (List Byte × Instr)),
      decode w.1 = .ok (w.2, []) ∧ encode w.2 = w.1 := by
  decide +kernel

theorem test_decode_alu16 :
    ∀ w ∈ ([([0x19], .addHLPair .de),
      ([0x39], .addHLPair .sp),
      ([0xE8, 0xFF], .addSPE 0xFF),
      ([0x33], .incPair .sp),
      ([0x2B], .decPair .hl)] : List (List Byte × Instr)),
      decode w.1 = .ok (w.2, []) ∧ encode w.2 = w.1 := by
  decide +kernel

theorem test_decode_control :
    ∀ w ∈ ([([0xC3, 0x00, 0x80], .jpNN 0x8000),
      ([0xCA, 0x00, 0x80], .jpCond .z 0x8000),
      ([0xE9], .jpHL),
      ([0x18, 0xFE], .jrE 0xFE),
      ([0x30, 0x10], .jrCond .nc 0x10),
      ([0xCD, 0x34, 0x12], .callNN 0x1234),
      ([0xDC, 0x34, 0x12], .callCond .c 0x1234),
      ([0xC9], .ret),
      ([0xC0], .retCond .nz),
      ([0xEF], .rst 5)] : List (List Byte × Instr)),
      decode w.1 = .ok (w.2, []) ∧ encode w.2 = w.1 := by
  decide +kernel

theorem test_decode_cb :
    ∀ w ∈ ([([0xCB, 0x00], .rlcR .b),
      ([0xCB, 0x06], .rlcAtHL),
      ([0xCB, 0x09], .rrcR .c),
      ([0xCB, 0x0E], .rrcAtHL),
      ([0xCB, 0x12], .rlR .d),
      ([0xCB, 0x16], .rlAtHL),
      ([0xCB, 0x1B], .rrR .e),
      ([0xCB, 0x1E], .rrAtHL),
      ([0xCB, 0x24], .slaR .h),
      ([0xCB, 0x26], .slaAtHL),
      ([0xCB, 0x2D], .sraR .l),
      ([0xCB, 0x2E], .sraAtHL),
      ([0xCB, 0x37], .swapR .a),
      ([0xCB, 0x36], .swapAtHL),
      ([0xCB, 0x3F], .srlR .a),
      ([0xCB, 0x3E], .srlAtHL),
      ([0xCB, 0x7C], .bitR 7 .h),
      ([0xCB, 0x5E], .bitAtHL 3),
      ([0xCB, 0x87], .resR 0 .a),
      ([0xCB, 0xBE], .resAtHL 7),
      ([0xCB, 0xCB], .setR 1 .e),
      ([0xCB, 0xC6], .setAtHL 0)] : List (List Byte × Instr)),
      decode w.1 = .ok (w.2, []) ∧ encode w.2 = w.1 := by
  decide +kernel

/-- No byte, and a byte short. -/
theorem test_decode_errors :
    decode [] = .error .noBytes ∧ decode [0xC3, 0x00] = .error (.missingOperand 0xC3) ∧
      decode [0xCB] = .error (.missingOperand 0xCB) := by decide +kernel

/-- The lengths of R73, by first byte: two for each immediate byte, signed offset and prefix, three for each word. -/
theorem test_opLength :
    (∀ op ∈ ([0x06, 0x0E, 0x16, 0x1E, 0x26, 0x2E, 0x36, 0x3E, 0x18, 0x20, 0x28, 0x30, 0x38, 0xC6, 0xCE, 0xD6, 0xDE, 0xE6,
      0xEE, 0xF6, 0xFE, 0xE0, 0xF0, 0xE8, 0xF8, 0xCB] : List Byte), opLength op = 2) ∧
    (∀ op ∈ ([0x01, 0x11, 0x21, 0x31, 0x08, 0xEA, 0xFA, 0xC3, 0xC2, 0xCA, 0xD2, 0xDA, 0xCD, 0xC4, 0xCC, 0xD4,
      0xDC] : List Byte), opLength op = 3) ∧
    (∀ op ∈ ([0x00, 0x10, 0x76, 0x80, 0xC9, 0xFF, 0xD3, 0xFD] : List Byte), opLength op = 1) := by decide

/-- The opcode table's numbering: `LD HL,0x3A5B`, and `JP nn` with its operand bits not given. -/
theorem test_decodeTableWord :
    decodeTableWord 24 0x3A5B21 = some (.ldPairNN .hl 0x3A5B) ∧ decodeTableWord 8 0xC3 = some (.jpNN 0) ∧
      decodeTableWord 16 0x37CB = some (.swapR .a) := by decide +kernel

/-- `withFetchWord`: the next step runs the instruction. -/
theorem test_withFetchWord :
    look (State.reset.withFetchWord 16 0x993E) (fun t => (t.a, t.pc, t.cycles)) = some (0x99, 0x0002, 8) := by
  decide +kernel


/-! ## 8-bit arithmetic and logic (the examples of R106 to R138) -/

/-- R106. -/
theorem test_add_r :
    look { start [0x80] with a := 0x3A, b := 0xC6 }
        (fun t => (t.a, t.f, t.pc, t.cycles)) =
      some (0x00, 0xB0, 0x0101, 4) := by
  decide +kernel

/-- R106: the operand is read before A is written. -/
theorem test_add_a_a :
    look { start [0x87] with a := 0x80 } (fun t => (t.a, t.f, t.pc, t.cycles)) = some (0x00, 0x90, 0x0101, 4) := by
  decide +kernel

/-- R107. -/
theorem test_add_hl :
    look { (start [0x86]).poke 0xC000 0xFF with a := 0x01, h := 0xC0, l := 0x00 }
        (fun t => (t.a, t.f, t.pc, t.cycles)) =
      some (0x00, 0xB0, 0x0101, 8) := by
  decide +kernel

/-- R108, 90_conflicts.md C1: no half carry. -/
theorem test_add_n :
    look { start [0xC6, 0x38] with a := 0x45 }
        (fun t => (t.a, t.f, t.pc, t.cycles)) =
      some (0x7D, 0x00, 0x0102, 8) := by
  decide +kernel

/-- R110. -/
theorem test_adc_r :
    look { start [0x88] with a := 0xE1, b := 0x0F, f := 0x10 }
        (fun t => (t.a, t.f, t.pc, t.cycles)) =
      some (0xF1, 0x20, 0x0101, 4) := by
  decide +kernel

/-- R111. -/
theorem test_adc_hl :
    look { (start [0x8E]).poke 0xC000 0x00 with a := 0x0F, f := 0x10, h := 0xC0, l := 0x00 }
        (fun t => (t.a, t.f, t.pc, t.cycles)) =
      some (0x10, 0x20, 0x0101, 8) := by
  decide +kernel

/-- R112. -/
theorem test_adc_n :
    look { start [0xCE, 0xFF] with a := 0x00, f := 0x10 }
        (fun t => (t.a, t.f, t.pc, t.cycles)) =
      some (0x00, 0xB0, 0x0102, 8) := by
  decide +kernel

/-- R113. -/
theorem test_sub_r :
    look { start [0x90] with a := 0x10, b := 0x01 }
        (fun t => (t.a, t.f, t.pc, t.cycles)) =
      some (0x0F, 0x60, 0x0101, 4) := by
  decide +kernel

/-- R114. -/
theorem test_sub_hl :
    look { (start [0x96]).poke 0xC000 0x01 with a := 0x00, h := 0xC0, l := 0x00 }
        (fun t => (t.a, t.f, t.pc, t.cycles)) =
      some (0xFF, 0x70, 0x0101, 8) := by
  decide +kernel

/-- R115. -/
theorem test_sub_n :
    look { start [0xD6, 0x40] with a := 0x3E }
        (fun t => (t.a, t.f, t.pc, t.cycles)) =
      some (0xFE, 0x50, 0x0102, 8) := by
  decide +kernel

/-- R116. -/
theorem test_sbc_r :
    look { start [0x98] with a := 0x3B, b := 0x2A, f := 0x10 }
        (fun t => (t.a, t.f, t.pc, t.cycles)) =
      some (0x10, 0x40, 0x0101, 4) := by
  decide +kernel

/-- R116. -/
theorem test_sbc_a_a :
    look { start [0x9F] with a := 0x12, f := 0x10 }
        (fun t => (t.a, t.f, t.pc, t.cycles)) =
      some (0xFF, 0x70, 0x0101, 4) := by
  decide +kernel

/-- R117. -/
theorem test_sbc_hl :
    look { (start [0x9E]).poke 0xC000 0x4F with a := 0x3B, f := 0x10, h := 0xC0, l := 0x00 }
        (fun t => (t.a, t.f, t.pc, t.cycles)) =
      some (0xEB, 0x70, 0x0101, 8) := by
  decide +kernel

/-- R118: operand 0xFF with a borrow in. -/
theorem test_sbc_n :
    look { start [0xDE, 0xFF] with a := 0x00, f := 0x10 }
        (fun t => (t.a, t.f, t.pc, t.cycles)) =
      some (0x00, 0xF0, 0x0102, 8) := by
  decide +kernel

/-- R119. -/
theorem test_and_r :
    look { start [0xA0] with a := 0x5A, b := 0x3F, f := 0x50 }
        (fun t => (t.a, t.f, t.pc, t.cycles)) =
      some (0x1A, 0x20, 0x0101, 4) := by
  decide +kernel

/-- R120. -/
theorem test_and_hl :
    look { (start [0xA6]).poke 0xC000 0x18 with a := 0xF0, h := 0xC0, l := 0x00 }
        (fun t => (t.a, t.f, t.pc, t.cycles)) =
      some (0x10, 0x20, 0x0101, 8) := by
  decide +kernel

/-- R121. -/
theorem test_and_n :
    look { start [0xE6, 0x00] with a := 0xFF }
        (fun t => (t.a, t.f, t.pc, t.cycles)) =
      some (0x00, 0xA0, 0x0102, 8) := by
  decide +kernel

/-- R122. -/
theorem test_xor_r :
    look { start [0xAF] with a := 0x5A, f := 0xF0 }
        (fun t => (t.a, t.f, t.pc, t.cycles)) =
      some (0x00, 0x80, 0x0101, 4) := by
  decide +kernel

/-- R123. -/
theorem test_xor_hl :
    look { (start [0xAE]).poke 0xC000 0x8A with a := 0x0F, h := 0xC0, l := 0x00 }
        (fun t => (t.a, t.f, t.pc, t.cycles)) =
      some (0x85, 0x00, 0x0101, 8) := by
  decide +kernel

/-- R124. -/
theorem test_xor_n :
    look { start [0xEE, 0xFF] with a := 0xFF }
        (fun t => (t.a, t.f, t.pc, t.cycles)) =
      some (0x00, 0x80, 0x0102, 8) := by
  decide +kernel

/-- R125. -/
theorem test_or_r :
    look { start [0xB0] with a := 0x5A, b := 0x03, f := 0xF0 }
        (fun t => (t.a, t.f, t.pc, t.cycles)) =
      some (0x5B, 0x00, 0x0101, 4) := by
  decide +kernel

/-- R126. -/
theorem test_or_hl :
    look { (start [0xB6]).poke 0xC000 0x0F with a := 0x5A, h := 0xC0, l := 0x00 }
        (fun t => (t.a, t.f, t.pc, t.cycles)) =
      some (0x5F, 0x00, 0x0101, 8) := by
  decide +kernel

/-- R127. -/
theorem test_or_n :
    look { start [0xF6, 0x00] with a := 0x00, f := 0x70 }
        (fun t => (t.a, t.f, t.pc, t.cycles)) =
      some (0x00, 0x80, 0x0102, 8) := by
  decide +kernel

/-- R128. -/
theorem test_cp_r :
    look { start [0xB8] with a := 0x3C, b := 0x2F }
        (fun t => (t.a, t.f, t.pc, t.cycles)) =
      some (0x3C, 0x60, 0x0101, 4) := by
  decide +kernel

/-- R129. -/
theorem test_cp_hl :
    look { (start [0xBE]).poke 0xC000 0x40 with a := 0x3C, h := 0xC0, l := 0x00 }
        (fun t => (t.a, t.f, t.pc, t.cycles)) =
      some (0x3C, 0x50, 0x0101, 8) := by
  decide +kernel

/-- R130. -/
theorem test_cp_n :
    look { start [0xFE, 0x3C] with a := 0x3C }
        (fun t => (t.a, t.f, t.pc, t.cycles)) =
      some (0x3C, 0xC0, 0x0102, 8) := by
  decide +kernel

/-- R131. -/
theorem test_inc_r :
    look { start [0x3C] with a := 0x0F, f := 0x10 }
        (fun t => (t.a, t.f, t.pc, t.cycles)) =
      some (0x10, 0x30, 0x0101, 4) := by
  decide +kernel

/-- R132. -/
theorem test_inc_hl :
    look { (start [0x34]).poke 0xC000 0xFF with f := 0x00, h := 0xC0, l := 0x00 }
        (fun t => (t.peek 0xC000, t.f, t.cycles)) =
      some (0x00, 0xA0, 12) := by
  decide +kernel

/-- R133. -/
theorem test_dec_r :
    look { start [0x3D] with a := 0x01, f := 0x10 }
        (fun t => (t.a, t.f, t.pc, t.cycles)) =
      some (0x00, 0xD0, 0x0101, 4) := by
  decide +kernel

/-- R134. -/
theorem test_dec_hl :
    look { (start [0x35]).poke 0xC000 0x00 with f := 0x10, h := 0xC0, l := 0x00 }
        (fun t => (t.peek 0xC000, t.f, t.cycles)) =
      some (0xFF, 0x70, 12) := by
  decide +kernel

/-- R135, the source's example. -/
theorem test_daa_after_add :
    look { start [0x27] with a := 0x7D } (fun t => (t.a, t.f, t.pc, t.cycles)) = some (0x83, 0x00, 0x0101, 4) := by
  decide +kernel

/-- R135. -/
theorem test_daa_after_sub :
    look { start [0x27] with a := 0x4B, f := 0x60 }
        (fun t => (t.a, t.f, t.pc, t.cycles)) =
      some (0x45, 0x40, 0x0101, 4) := by
  decide +kernel

/-- R136. -/
theorem test_cpl :
    look { start [0x2F] with a := 0x35, f := 0x90 }
        (fun t => (t.a, t.f, t.pc, t.cycles)) =
      some (0xCA, 0xF0, 0x0101, 4) := by
  decide +kernel

/-- R137. -/
theorem test_scf :
    look { start [0x37] with f := 0xE0 } (fun t => (t.a, t.f, t.pc, t.cycles)) = some (0x00, 0x90, 0x0101, 4) := by
  decide +kernel

/-- R138. -/
theorem test_ccf :
    look { start [0x3F] with f := 0xF0 } (fun t => (t.a, t.f, t.pc, t.cycles)) = some (0x00, 0x80, 0x0101, 4) := by
  decide +kernel


/-! ## 16-bit arithmetic (R152 to R155) -/

/-- R152. -/
theorem test_add_hl_bc :
    look { start [0x09] with h := 0x8A, l := 0x23, b := 0x06, c := 0x05, f := 0x80 }
        (fun t => (t.hl, t.f, t.cycles)) =
      some (0x9028, 0xA0, 8) := by
  decide +kernel

/-- R152: Z stays 0. -/
theorem test_add_hl_sp :
    look { start [0x39] with h := 0x00, l := 0x01, sp := 0xFFFF }
        (fun t => (t.hl, t.f, t.sp)) =
      some (0x0000, 0x30, 0xFFFF) := by
  decide +kernel

/-- R153. -/
theorem test_add_sp :
    look { start [0xE8, 0xFF] with sp := 0x0001 } (fun t => (t.sp, t.f, t.cycles)) = some (0x0000, 0x30, 16) := by
  decide +kernel

/-- R153. -/
theorem test_add_sp_negative :
    look { start [0xE8, 0x80] with sp := 0x0100, f := 0xF0 } (fun t => (t.sp, t.f)) = some (0x0080, 0x00) := by
  decide +kernel

/-- R154. -/
theorem test_inc_bc :
    look { start [0x03] with b := 0xFF, c := 0xFF, f := 0xF0 }
        (fun t => (t.bc, t.f, t.cycles)) =
      some (0x0000, 0xF0, 8) := by
  decide +kernel

/-- R155. -/
theorem test_dec_sp :
    look { start [0x3B] with sp := 0x0000 } (fun t => (t.sp, t.f, t.cycles)) = some (0xFFFF, 0x00, 8) := by
  decide +kernel


/-! ## Rotates, shifts and bits (R160 to R193) -/

/-- R160. -/
theorem test_rlca :
    look { start [0x07] with a := 0x85, f := 0xE0 }
        (fun t => (t.a, t.f, t.pc, t.cycles)) =
      some (0x0B, 0x10, 0x0101, 4) := by
  decide +kernel

/-- R161. -/
theorem test_rrca :
    look { start [0x0F] with a := 0x3B } (fun t => (t.a, t.f, t.pc, t.cycles)) = some (0x9D, 0x10, 0x0101, 4) := by
  decide +kernel

/-- R162: Z is 0 though the result is. -/
theorem test_rla :
    look { start [0x17] with a := 0x80, f := 0x80 }
        (fun t => (t.a, t.f, t.pc, t.cycles)) =
      some (0x00, 0x10, 0x0101, 4) := by
  decide +kernel

/-- R163. -/
theorem test_rra :
    look { start [0x1F] with a := 0x00, f := 0x10 }
        (fun t => (t.a, t.f, t.pc, t.cycles)) =
      some (0x80, 0x00, 0x0101, 4) := by
  decide +kernel

/-- R172. -/
theorem test_rlc_r :
    look { start [0xCB, 0x00] with b := 0x00, f := 0x10 }
        (fun t => (t.b, t.f, t.pc, t.cycles)) =
      some (0x00, 0x80, 0x0102, 8) := by
  decide +kernel

/-- R173. -/
theorem test_rlc_hl :
    look { (start [0xCB, 0x06]).poke 0xC000 0x80 with f := 0x00, h := 0xC0, l := 0x00 }
        (fun t => (t.peek 0xC000, t.f, t.cycles)) =
      some (0x01, 0x10, 16) := by
  decide +kernel

/-- R174. -/
theorem test_rrc_r :
    look { start [0xCB, 0x09] with c := 0x01 }
        (fun t => (t.c, t.f, t.pc, t.cycles)) =
      some (0x80, 0x10, 0x0102, 8) := by
  decide +kernel

/-- R175. -/
theorem test_rrc_hl :
    look { (start [0xCB, 0x0E]).poke 0xC000 0x00 with f := 0x70, h := 0xC0, l := 0x00 }
        (fun t => (t.peek 0xC000, t.f, t.cycles)) =
      some (0x00, 0x80, 16) := by
  decide +kernel

/-- R176. -/
theorem test_rl_r :
    look { start [0xCB, 0x12] with d := 0x80 }
        (fun t => (t.d, t.f, t.pc, t.cycles)) =
      some (0x00, 0x90, 0x0102, 8) := by
  decide +kernel

/-- R177. -/
theorem test_rl_hl :
    look { (start [0xCB, 0x16]).poke 0xC000 0x11 with f := 0x10, h := 0xC0, l := 0x00 }
        (fun t => (t.peek 0xC000, t.f, t.cycles)) =
      some (0x23, 0x00, 16) := by
  decide +kernel

/-- R178. -/
theorem test_rr_r :
    look { start [0xCB, 0x1F] with a := 0x8A, f := 0x10 }
        (fun t => (t.a, t.f, t.pc, t.cycles)) =
      some (0xC5, 0x00, 0x0102, 8) := by
  decide +kernel

/-- R179. -/
theorem test_rr_hl :
    look { (start [0xCB, 0x1E]).poke 0xC000 0x01 with f := 0x00, h := 0xC0, l := 0x00 }
        (fun t => (t.peek 0xC000, t.f, t.cycles)) =
      some (0x00, 0x90, 16) := by
  decide +kernel

/-- R180. -/
theorem test_sla_r :
    look { start [0xCB, 0x24] with h := 0x80 }
        (fun t => (t.h, t.f, t.pc, t.cycles)) =
      some (0x00, 0x90, 0x0102, 8) := by
  decide +kernel

/-- R181. -/
theorem test_sla_hl :
    look { (start [0xCB, 0x26]).poke 0xC000 0x55 with f := 0x10, h := 0xC0, l := 0x00 }
        (fun t => (t.peek 0xC000, t.f, t.cycles)) =
      some (0xAA, 0x00, 16) := by
  decide +kernel

/-- R182. -/
theorem test_sra_r :
    look { start [0xCB, 0x2D] with l := 0x8A }
        (fun t => (t.l, t.f, t.pc, t.cycles)) =
      some (0xC5, 0x00, 0x0102, 8) := by
  decide +kernel

/-- R183. -/
theorem test_sra_hl :
    look { (start [0xCB, 0x2E]).poke 0xC000 0x81 with f := 0x00, h := 0xC0, l := 0x00 }
        (fun t => (t.peek 0xC000, t.f, t.cycles)) =
      some (0xC0, 0x10, 16) := by
  decide +kernel

/-- R184. -/
theorem test_swap_r :
    look { start [0xCB, 0x37] with a := 0xF1, f := 0xF0 }
        (fun t => (t.a, t.f, t.pc, t.cycles)) =
      some (0x1F, 0x00, 0x0102, 8) := by
  decide +kernel

/-- R185. -/
theorem test_swap_hl :
    look { (start [0xCB, 0x36]).poke 0xC000 0x12 with f := 0x00, h := 0xC0, l := 0x00 }
        (fun t => (t.peek 0xC000, t.f, t.cycles)) =
      some (0x21, 0x00, 16) := by
  decide +kernel

/-- R186. -/
theorem test_srl_r :
    look { start [0xCB, 0x38] with b := 0xFF }
        (fun t => (t.b, t.f, t.pc, t.cycles)) =
      some (0x7F, 0x10, 0x0102, 8) := by
  decide +kernel

/-- R187. -/
theorem test_srl_hl :
    look { (start [0xCB, 0x3E]).poke 0xC000 0x80 with f := 0x10, h := 0xC0, l := 0x00 }
        (fun t => (t.peek 0xC000, t.f, t.cycles)) =
      some (0x40, 0x00, 16) := by
  decide +kernel

/-- R188. -/
theorem test_bit_r :
    look { start [0xCB, 0x7C] with h := 0x80, f := 0x10 }
        (fun t => (t.h, t.f, t.pc, t.cycles)) =
      some (0x80, 0x30, 0x0102, 8) := by
  decide +kernel

/-- R189. -/
theorem test_bit_hl :
    look { (start [0xCB, 0x5E]).poke 0xC000 0xF7 with f := 0x00, h := 0xC0, l := 0x00 }
        (fun t => (t.peek 0xC000, t.f, t.cycles)) =
      some (0xF7, 0xA0, 12) := by
  decide +kernel

/-- R190. -/
theorem test_res_r :
    look { start [0xCB, 0x87] with a := 0xFF, f := 0xF0 }
        (fun t => (t.a, t.f, t.pc, t.cycles)) =
      some (0xFE, 0xF0, 0x0102, 8) := by
  decide +kernel

/-- R191. -/
theorem test_res_hl :
    look { (start [0xCB, 0xBE]).poke 0xC000 0xFF with f := 0x00, h := 0xC0, l := 0x00 }
        (fun t => (t.peek 0xC000, t.f, t.cycles)) =
      some (0x7F, 0x00, 16) := by
  decide +kernel

/-- R192. -/
theorem test_set_r :
    look { start [0xCB, 0xFF] with a := 0x00, f := 0xF0 }
        (fun t => (t.a, t.f, t.pc, t.cycles)) =
      some (0x80, 0xF0, 0x0102, 8) := by
  decide +kernel

/-- R193. -/
theorem test_set_hl :
    look { (start [0xCB, 0xC6]).poke 0xC000 0x00 with f := 0x00, h := 0xC0, l := 0x00 }
        (fun t => (t.peek 0xC000, t.f, t.cycles)) =
      some (0x01, 0x00, 16) := by
  decide +kernel

/-- The byte after the prefix is the entry (R271): `PREFIX CB` with 0x37 does what `SWAP A` does. -/
theorem test_prefix :
    exec (.prefixCB 0x37) { State.reset with a := 0xF0 } = exec (.swapR .a) { State.reset with a := 0xF0 } := rfl


/-! ## 8-bit loads (R200 to R218) -/

/-- R200. -/
theorem test_ld_r_r :
    look { start [0x41] with b := 0x01, c := 0x77 }
        (fun t => (t.bc, t.pc, t.cycles)) =
      some (0x7777, 0x0101, 4) := by
  decide +kernel

/-- R201. -/
theorem test_ld_r_n :
    look { start [0x3E, 0x00] with a := 0xFF, f := 0xF0 }
        (fun t => (t.a, t.f, t.cycles)) =
      some (0x00, 0xF0, 8) := by
  decide +kernel

/-- R202: the address is the old HL. -/
theorem test_ld_r_hl :
    look { (start [0x66]).poke 0xC123 0x5C with h := 0xC1, l := 0x23 }
        (fun t => (t.hl, t.cycles)) =
      some (0x5C23, 8) := by
  decide +kernel

/-- R203. -/
theorem test_ld_hl_r :
    look { start [0x74] with h := 0xC0, l := 0xDE } (fun t => (t.peek 0xC0DE, t.cycles)) = some (0xC0, 8) := by
  decide +kernel

/-- R204. -/
theorem test_ld_hl_n :
    look { start [0x36, 0x99] with h := 0x8A, l := 0xC5 }
        (fun t => (t.peek 0x8AC5, t.pc, t.cycles)) =
      some (0x99, 0x0102, 12) := by
  decide +kernel

/-- R205. -/
theorem test_ld_a_bc :
    look { (start [0x0A]).poke 0xC001 0x2F with b := 0xC0, c := 0x01 }
        (fun t => (t.a, t.cycles)) =
      some (0x2F, 8) := by
  decide +kernel

/-- R206. -/
theorem test_ld_a_de :
    look { (start [0x1A]).poke 0xC002 0x5F with d := 0xC0, e := 0x02 }
        (fun t => (t.a, t.cycles)) =
      some (0x5F, 8) := by
  decide +kernel

/-- R207. -/
theorem test_ld_bc_a :
    look { start [0x02] with b := 0x20, c := 0x5F, a := 0x3F }
        (fun t => (t.peek 0x205F, t.cycles)) =
      some (0x3F, 8) := by
  decide +kernel

/-- R208. -/
theorem test_ld_de_a :
    look { start [0x12] with d := 0x20, e := 0x5C, a := 0x01 }
        (fun t => (t.peek 0x205C, t.cycles)) =
      some (0x01, 8) := by
  decide +kernel

/-- R209. -/
theorem test_ld_a_nn :
    look ((start [0xFA, 0x34, 0x12]).poke 0x1234 0x77)
        (fun t => (t.a, t.pc, t.cycles)) =
      some (0x77, 0x0103, 16) := by
  decide +kernel

/-- R210. -/
theorem test_ld_nn_a :
    look { start [0xEA, 0x00, 0xC1] with a := 0x42 }
        (fun t => (t.peek 0xC100, t.pc, t.cycles)) =
      some (0x42, 0x0103, 16) := by
  decide +kernel

/-- R211. -/
theorem test_ldh_a_c :
    look { (start [0xF2]).poke 0xFF95 0x11 with c := 0x95 } (fun t => (t.a, t.cycles)) = some (0x11, 8) := by
  decide +kernel

/-- R212. -/
theorem test_ldh_c_a :
    look { start [0xE2] with c := 0x9F, a := 0xAA } (fun t => (t.peek 0xFF9F, t.cycles)) = some (0xAA, 8) := by
  decide +kernel

/-- R213. -/
theorem test_ldh_a_n :
    look ((start [0xF0, 0xFF]).poke 0xFFFF 0x1F) (fun t => (t.a, t.pc, t.cycles)) = some (0x1F, 0x0102, 12) := by
  decide +kernel

/-- R214: on the reference bus this requests VBLANK. -/
theorem test_ldh_n_a :
    look { start [0xE0, 0x0F] with a := 0x01 }
        (fun t => (t.peek 0xFF0F, t.interruptFlag, t.cycles)) =
      some (0x01, 1, 12) := by
  decide +kernel

/-- R215. -/
theorem test_ld_a_hli :
    look { (start [0x2A]).poke 0xFFFF 0x07 with h := 0xFF, l := 0xFF }
        (fun t => (t.a, t.hl, t.cycles)) =
      some (0x07, 0x0000, 8) := by
  decide +kernel

/-- R216. -/
theorem test_ld_a_hld :
    look { (start [0x3A]).poke 0x0000 0x12 with h := 0x00, l := 0x00 }
        (fun t => (t.a, t.hl, t.cycles)) =
      some (0x12, 0xFFFF, 8) := by
  decide +kernel

/-- R217. -/
theorem test_ld_hli_a :
    look { start [0x22] with h := 0xFF, l := 0xFF, a := 0x56 }
        (fun t => (t.peek 0xFFFF, t.hl, t.cycles)) =
      some (0x56, 0x0000, 8) := by
  decide +kernel

/-- R218. -/
theorem test_ld_hld_a :
    look { start [0x32] with h := 0x40, l := 0x00, a := 0x05 }
        (fun t => (t.peek 0x4000, t.hl, t.cycles)) =
      some (0x05, 0x3FFF, 8) := by
  decide +kernel


/-! ## 16-bit loads and the stack (R232 to R238) -/

/-- R232. -/
theorem test_ld_rr_nn :
    look (start [0x21, 0x5B, 0x3A]) (fun t => (t.hl, t.pc, t.cycles)) = some (0x3A5B, 0x0103, 12) := by
  decide +kernel

/-- R233. -/
theorem test_ld_hl_sp_e :
    look { start [0xF8, 0xFF] with sp := 0x0001 }
        (fun t => (t.hl, t.f, t.sp, t.cycles)) =
      some (0x0000, 0x30, 0x0001, 12) := by
  decide +kernel

/-- R234. -/
theorem test_ld_sp_hl :
    look { start [0xF9] with h := 0xC0, l := 0xFF } (fun t => (t.sp, t.cycles)) = some (0xC0FF, 8) := by
  decide +kernel

/-- R235. -/
theorem test_ld_nn_sp_wraps :
    look { start [0x08, 0xFF, 0xFF] with sp := 0x1234 }
        (fun t => (t.peek 0xFFFF, t.peek 0x0000, t.cycles)) =
      some (0x34, 0x12, 20) := by
  decide +kernel

/-- R236, the source's stack example. -/
theorem test_push :
    look { start [0xC5] with b := 0x12, c := 0x34 }
        (fun t => (t.sp, t.peek 0xFFFC, t.peek 0xFFFD, t.cycles)) =
      some (0xFFFC, 0x34, 0x12, 16) := by
  decide +kernel

/-- R236. -/
theorem test_push_wraps :
    look { start [0xE5] with h := 0xBE, l := 0xEF, sp := 0x0001 }
        (fun t => (t.sp, t.peek 0xFFFF, t.peek 0x0000)) =
      some (0xFFFF, 0xEF, 0xBE) := by
  decide +kernel

/-- R237. -/
theorem test_pop_af :
    look { ((start [0xF1]).poke 0xFFFC 0xFF).poke 0xFFFD 0x12 with sp := 0xFFFC }
        (fun t => (t.a, t.f, t.sp, t.cycles)) =
      some (0x12, 0xF0, 0xFFFE, 12) := by
  decide +kernel

/-- R238. -/
theorem test_pop_wraps :
    look { ((start [0xE1]).poke 0xFFFF 0x34).poke 0x0000 0x12 with sp := 0xFFFF }
        (fun t => (t.hl, t.sp, t.cycles)) =
      some (0x1234, 0x0001, 12) := by
  decide +kernel


/-! ## Jumps, calls, returns (R246 to R257) -/

/-- R246. -/
theorem test_jp : look (start [0xC3, 0x00, 0x80]) (fun t => (t.pc, t.cycles)) = some (0x8000, 16) := by decide +kernel

/-- R247. -/
theorem test_jp_cond_taken :
    look { start [0xCA, 0x00, 0x80] with f := 0x80 } (fun t => (t.pc, t.cycles)) = some (0x8000, 16) := by
  decide +kernel

/-- R247. -/
theorem test_jp_cond_not :
    look { start [0xDA, 0x00, 0x80] with f := 0x00 } (fun t => (t.pc, t.cycles)) = some (0x0103, 12) := by
  decide +kernel

/-- R248. -/
theorem test_jp_hl :
    look { start [0xE9] with h := 0x80, l := 0x00 } (fun t => (t.pc, t.cycles)) = some (0x8000, 4) := by
  decide +kernel

/-- R249. -/
theorem test_jr_back : look (start [0x18, 0xFE]) (fun t => (t.pc, t.cycles)) = some (0x0100, 12) := by decide +kernel

/-- R250. -/
theorem test_jr_cond_taken :
    look { start [0x20, 0xFA] with f := 0x00 } (fun t => (t.pc, t.cycles)) = some (0x00FC, 12) := by
  decide +kernel

/-- R250. -/
theorem test_jr_cond_not :
    look { start [0x30, 0x10] with f := 0x10 } (fun t => (t.pc, t.cycles)) = some (0x0102, 8) := by
  decide +kernel

/-- R252, at 0x0100. -/
theorem test_call :
    look (start [0xCD, 0x34, 0x12])
        (fun t => (t.pc, t.sp, t.peek 0xFFFC, t.peek 0xFFFD, t.cycles)) =
      some (0x1234, 0xFFFC, 0x03, 0x01, 24) := by
  decide +kernel

/-- R253. -/
theorem test_call_cond_taken :
    look { start [0xCC, 0x34, 0x12] with f := 0x80 }
        (fun t => (t.pc, t.sp, t.peek 0xFFFC, t.peek 0xFFFD, t.cycles)) =
      some (0x1234, 0xFFFC, 0x03, 0x01, 24) := by
  decide +kernel

/-- R253. -/
theorem test_call_cond_not :
    look { start [0xD4, 0x34, 0x12] with f := 0x10 }
        (fun t => (t.pc, t.sp, t.cycles)) =
      some (0x0103, 0xFFFE, 12) := by
  decide +kernel

/-- R254. -/
theorem test_ret :
    look { ((start [0xC9]).poke 0xFFFC 0x03).poke 0xFFFD 0x80 with sp := 0xFFFC }
        (fun t => (t.pc, t.sp, t.cycles)) =
      some (0x8003, 0xFFFE, 16) := by
  decide +kernel

/-- R255. -/
theorem test_ret_cond_taken :
    look { ((start [0xC0]).poke 0xFFFC 0x03).poke 0xFFFD 0x80 with sp := 0xFFFC }
        (fun t => (t.pc, t.sp, t.cycles)) =
      some (0x8003, 0xFFFE, 20) := by
  decide +kernel

/-- R255. -/
theorem test_ret_cond_not :
    look { ((start [0xD8]).poke 0xFFFC 0x03).poke 0xFFFD 0x80 with sp := 0xFFFC }
        (fun t => (t.pc, t.sp, t.cycles)) =
      some (0x0101, 0xFFFC, 8) := by
  decide +kernel

/-- R257. -/
theorem test_rst :
    look (start [0xEF])
        (fun t => (t.pc, t.sp, t.peek 0xFFFC, t.peek 0xFFFD, t.cycles)) =
      some (0x0028, 0xFFFC, 0x01, 0x01, 16) := by
  decide +kernel


/-! ## System instructions (R265 to R272) -/

/-- R265. -/
theorem test_nop :
    look { start [0x00] with f := 0xF0 } (fun t => (t.a, t.f, t.pc, t.cycles)) = some (0x00, 0xF0, 0x0101, 4) := by
  decide +kernel

/-- R266: no common bit. -/
theorem test_halt :
    look (((start [0x76]).poke 0xFFFF 0x04).poke 0xFF0F 0x01)
        (fun t => (t.runState, t.haltBug, t.pc, t.cycles)) =
      some (.halted, false, 0x0101, 4) := by
  decide +kernel

/-- R266. -/
theorem test_halt_bug :
    look (((start [0x76]).poke 0xFFFF 0x04).poke 0xFF0F 0x04)
        (fun t => (t.runState, t.haltBug, t.pc, t.cycles)) =
      some (.running, true, 0x0101, 4) := by
  decide +kernel

/-- R267: `STOP` never arms the bug. -/
theorem test_stop :
    look (((start [0x10, 0x00]).poke 0xFFFF 0x03).poke 0xFF0F 0x02)
        (fun t => (t.runState, t.haltBug, t.pc, t.cycles)) =
      some (.halted, false, 0x0101, 4) := by
  decide +kernel

/-- R268. -/
theorem test_di :
    look { start [0xF3] with ime := true } (fun t => (t.ime, t.pc, t.cycles)) = some (false, 0x0101, 4) := by
  decide +kernel

/-- R269. -/
theorem test_ei : look (start [0xFB]) (fun t => (t.ime, t.pc, t.cycles)) = some (true, 0x0101, 4) := by decide +kernel

/-- R270. -/
theorem test_reti :
    look { ((start [0xD9]).poke 0xFFFC 0x50).poke 0xFFFD 0x01 with sp := 0xFFFC }
        (fun t => (t.pc, t.sp, t.ime, t.cycles)) =
      some (0x0150, 0xFFFE, true, 16) := by
  decide +kernel

/-- R272: each illegal byte logs, takes 0 ticks and changes nothing. -/
theorem test_illegal :
    ∀ op ∈ Config.illegalSet, look { start [op] with f := 0xF0 } (fun t => (t.f, t.pc, t.cycles, t.trace)) =
      some (0xF0, 0x0101, 0, [.read 0x0100 op, .logIllegal op]) := by decide +kernel


/-! ## The HALT bug and the halted step (R70, R72) -/

/-- R72 consequence (b): after an armed `HALT`, bytes `3E 14` execute as `LD A,0x3E`, and then `INC D`. -/
theorem test_halt_bug_operand :
    look { start [0x3E, 0x14] with haltBug := true } (fun t => (t.a, t.pc, t.haltBug)) = some (0x3E, 0x0101, false) := by
  decide +kernel

/-- R72 consequence (c): `CB xx` executes as `CB CB`, `SET 1,E`. -/
theorem test_halt_bug_prefix :
    look { start [0xCB, 0x37] with haltBug := true } (fun t => (t.e, t.pc, t.cycles)) = some (0x02, 0x0101, 8) := by
  decide +kernel

/-- R249 corner case: under the HALT bug `JR` takes its own opcode as the offset. -/
theorem test_halt_bug_jr :
    look { start [0x18, 0x05] with haltBug := true } (fun t => t.pc) = some 0x0119 := by decide +kernel

/-- R70 step 1: a halted step returns 4 and reads nothing. -/
theorem test_halted_step :
    look { start [0x3C] with runState := .halted } (fun t => (t.a, t.pc, t.cycles, t.trace)) = some (0, 0x0100, 4, []) := by
  decide +kernel

/-- R253: a not-taken `CALL cc` still reads its two immediate bytes (R245). -/
theorem test_not_taken_reads :
    look { start [0xC4, 0x34, 0x12] with f := 0x80 } (fun t => t.trace) =
      some [.read 0x0100 0xC4, .read 0x0101 0x34, .read 0x0102 0x12] := by decide +kernel

/-- R300: the breakpoint and the soft break set `paused`, and the instruction executes. -/
theorem test_debug :
    look { start [0x3C] with breakpoint := some 0x0100 } (fun t => (t.paused, t.a)) = some (true, 1) ∧
    look { start [0x40] with softBreak := true } (fun t => (t.paused, t.pc)) = some (true, 0x0101) ∧
    look { start [0xCB, 0x40] with softBreak := true } (fun t => t.paused) = some false := by decide +kernel


/-! ## The dispatcher (the examples of R285, R290) and the host's round (R8) -/

/-- PC = 0x1234, SP = 0xFFFE, IE and IF as given. -/
def waiting (ie iflag : Byte) : State :=
  { (State.reset.poke 0xFFFF ie).poke 0xFF0F iflag with sp := 0xFFFE, pc := 0x1234 }

/-- What a dispatcher call shows: serviced, PC, IF, IME, SP and the pushed word. -/
def dispatched (s : State) : Bool × Word × Byte × Bool × Word × Word :=
  let r := s.handleInterrupt
  (r.1, r.2.pc, r.2.peek 0xFF0F, r.2.ime, r.2.sp, (r.2.readWord r.2.sp).1)

/-- R285: VBLANK before TIMER, only its bit cleared. -/
theorem test_dispatch_priority :
    dispatched { waiting 0x05 0x05 with ime := true } = (true, 0x0040, 0x04, false, 0xFFFC, 0x1234) := by decide +kernel

/-- R285: each source alone or highest, at its vector. -/
theorem test_dispatch_vectors :
    let went (iflag : Byte) := (fun r : Bool × State => (r.2.pc, r.2.peek 0xFF0F))
      ({ waiting 0x1F iflag with ime := true } : State).handleInterrupt
    went 0x1F = (0x0040, 0x1E) ∧ went 0x1E = (0x0048, 0x1C) ∧ went 0x1C = (0x0050, 0x18) ∧ went 0x18 = (0x0058, 0x10) ∧
      went 0x10 = (0x0060, 0x00) := by decide +kernel

/-- R285: only an enabled source counts. -/
theorem test_dispatch_enabled :
    dispatched { waiting 0x10 0x1F with ime := true } = (true, 0x0060, 0x0F, false, 0xFFFC, 0x1234) := by decide +kernel

/-- R285, R290: with IME off nothing is serviced, and a halted core wakes. -/
theorem test_dispatch_wake :
    ({ waiting 0x04 0x04 with runState := .halted } : State).handleInterrupt = (false, waiting 0x04 0x04) := by decide +kernel

/-- R290: a request that is not enabled does not wake. -/
theorem test_dispatch_no_wake :
    ({ waiting 0x04 0x01 with runState := .halted, ime := true } : State).handleInterrupt.2.runState = .halted := by
  decide +kernel

/-- R269's example under the host discipline: `EI` at 0x0100 with VBLANK pending is interrupted within its own round. -/
theorem test_ei_round :
    rounds 1 (((start [0xFB]).poke 0xFFFF 0x01).poke 0xFF0F 0x01)
        (fun t => (t.pc, t.sp, [t.peek 0xFFFC, t.peek 0xFFFD, t.peek 0xFF0F], t.ime, t.clock)) =
      some (0x0040, 0xFFFC, [0x01, 0x01, 0x00], false, 24) := by decide +kernel

/-- R328: TIMER requested at the second tick of a `NOP` is serviced before the next instruction; 20 ticks more (R335). -/
theorem test_request_round :
    rounds 1 { (start [0x00]).poke 0xFFFF 0x04 with ime := true, inputs := [[], [], [.request .timer]] }
        (fun t => (t.pc, t.peek 0xFFFC, t.clock, t.inputs)) = some (0x0050, 0x01, 24, []) := by decide +kernel

/-- R7: the environment acts after an illegal opcode's step, which has no tick, and before the next: its store is fetched, and
its request is serviced at that next step's first tick. -/
theorem test_gap_before_step :
    rounds 2 { (start [0xD3, 0x00]).poke 0xFFFF 0x01 with
        ime := true, inputs := [[], [.busWrite 0x0101 0x3C, .request .vblank]] }
        (fun t => (t.a, t.pc, [t.peek 0xFFFC, t.peek 0xFFFD], t.clock)) = some (0x01, 0x0040, [0x02, 0x01], 24) := by
  decide +kernel


/-! ## The tick table (R336, R337) -/

/-- A table that gives other constants to `NOP`, `SCF`, `JR NZ`, an illegal byte and `SWAP A`. -/
def otherTicks : Config.TickTable :=
  { primary := [(0x00, { taken := 8, notTaken := 1 }), (0x37, { taken := 12, notTaken := 1 }),
      (0x20, { taken := 20, notTaken := 16 }), (0xD3, { taken := 4, notTaken := 4 })]
    secondary := [(0x37, { taken := 24, notTaken := 1 })] }

/-- R337: the table's entry counts, for `NOP`, and for `JR NZ` taken and not taken. -/
theorem test_ticks_entry :
    look { start [0x00] with ticks := otherTicks } (fun t => (t.pc, t.cycles)) = some (0x0101, 8) ∧
    look { start [0x20, 0x05] with ticks := otherTicks } (fun t => (t.pc, t.cycles)) = some (0x0107, 20) ∧
    look { start [0x20, 0x05] with ticks := otherTicks, f := 0x80 } (fun t => (t.pc, t.cycles)) = some (0x0102, 16) := by
  decide +kernel

/-- R337: the two tables have entries of their own, and an opcode not listed takes its default: `SCF` and `SWAP A` have the
same byte, `JR Z` is not listed. -/
theorem test_ticks_tables :
    look { start [0x37] with ticks := otherTicks } (fun t => t.cycles) = some 12 ∧
    look { start [0xCB, 0x37] with ticks := otherTicks } (fun t => t.cycles) = some 24 ∧
    look { start [0xCB, 0x00] with ticks := otherTicks } (fun t => t.cycles) = some 8 ∧
    look { start [0x28, 0x05] with ticks := otherTicks } (fun t => t.cycles) = some 8 := by decide +kernel

/-- R335, R272: no table changes the 4 ticks of a halted step and the 0 ticks of an illegal byte. -/
theorem test_ticks_fixed :
    look { start [0x00] with ticks := otherTicks, runState := .halted } (fun t => t.cycles) = some 4 ∧
    look { start [0xD3] with ticks := otherTicks } (fun t => t.cycles) = some 0 := by decide +kernel

/-- R8: the host ticks as often as the table says. -/
theorem test_ticks_round :
    rounds 1 { start [0x00] with ticks := otherTicks } (fun t => t.clock) = some 8 := by decide +kernel


/-! ## Witnesses: a state and operands that meet each statement's hypotheses -/

/-- A bus on which a device answers 0xFF00 to 0xFFFF. -/
def platform : BusState := { BusState.flat with devices := [{ first := 0xFF00, last := 0xFFFF }], device := 7 }

/-- `Accesses`, `Stored`, `StoredWord`: which addresses are memory, at the edges of a window; all are on the reference bus. -/
theorem witness_windows :
    let s : State := { State.reset with bus := platform }
    s.onMemory 0xFEFF = true ∧ s.onMemory 0xFF00 = false ∧ s.onMemory 0xFFFF = false ∧ s.onMemory 0x0000 = true ∧
      s.touchesMemory (.write 0xFF00 0) = false ∧ State.reset.onMemory 0xFFFF = true := by decide +kernel

/-- `InvariantAtReset`: the other preset's flag byte has a zero low nibble, and the bus's bytes are in canonical form. -/
theorem witness_reset : Config.dmgPostBoot.f &&& 0x0F = 0 ∧ Memory.wf platform.mem := by decide

/-- `RegisterFileReadsBackWrites`, `PopResult`, `PopRestoresPush`: a pair that is not AF; and AF. -/
theorem witness_pair : StackPair.bc ≠ .af ∧ StackPair.hl ≠ .af := by decide

/-- `OnlyListedInstructionsWriteFlags`: a load completes and is not in the list. -/
theorem witness_flags :
    look1 (.ldRR .b .c) State.reset (fun t => t.cycles) = some 4 ∧ WritesFlags (.ldRR .b .c) = false ∧
      WritesFlags (.prefixCB 0x80) = false ∧ WritesFlags (.prefixCB 0x7F) = true := by decide +kernel

/-- `OnlyListedInstructionsWriteControl`: each clause's premise is met, by `HALT`, by `HALT` with a source pending, by `EI`. -/
theorem witness_control :
    look1 .halt State.reset (fun t => t.runState) = some .halted ∧
    look1 .halt (waiting 0x01 0x01) (fun t => t.haltBug) = some true ∧
    look1 .ei State.reset (fun t => t.ime) = some true := by decide +kernel

/-- `StoreIsSeenByNextFetch`: HL = PC, in memory. -/
theorem witness_coherence :
    let s : State := { State.reset with h := 0x01, pc := 0x0100, bus := platform }
    s.hl = s.pc ∧ s.onMemory s.pc = true := by decide +kernel

/-- `PopRestoresPush`, `RetiUndoesEntry`: the stack at the edge of memory, and across the top of the address space. -/
theorem witness_stack :
    let s : State := { State.reset with sp := 0xFF00, bus := platform }
    let t : State := { State.reset with sp := 0x0001 }
    s.onMemory (s.sp - 2) = true ∧ s.onMemory (s.sp - 2 + 1) = true ∧ s.onMemory (s.sp - 2 + 2) = false ∧
      t.onMemory (t.sp - 2) = true ∧ t.onMemory (t.sp - 2 + 1) = true := by decide +kernel

/-- `StepRunsDecodedInstruction`: a three-byte instruction across the top of the address space. -/
theorem witness_step :
    let s : State := { ((State.reset.poke 0xFFFE 0xC3).poke 0xFFFF 0x34).poke 0x0000 0x12 with pc := 0xFFFE }
    let c := s.beginRound
    c.runState = .running ∧ c.haltBug = false ∧
      decode (c.readBytes [c.pc, c.pc + 1, c.pc + 2]).1 = .ok (.jpNN 0x1234, []) := by decide +kernel

/-- `OpcodeFetchHonoursHaltBug`: both cases, at the top of the address space. -/
theorem witness_fetch :
    ({ State.reset with pc := 0xFFFF, haltBug := true } : State).fetchOpcode.2.pc = 0xFFFF ∧
    ({ State.reset with pc := 0xFFFF } : State).fetchOpcode.2.pc = 0x0000 := by decide +kernel

/-- `HaltBugDoublesByte`, `PrefixSelectsSecondaryEntry`: a running core at 0xCB, with the bug armed and without. -/
theorem witness_prefix :
    let s : State := { start [0xCB, 0x37] with haltBug := true }
    s.runState = .running ∧ s.haltBug = true ∧ s.answer s.pc = 0xCB ∧ s.onMemory s.pc = true ∧
      s.onMemory (s.pc + 1) = true ∧ (start [0xCB, 0x37]).haltBug = false := by
  decide +kernel

/-- `HaltedStepIsIdle`, `WakeWithoutService`, `DebugHooksSetPaused`: a halted core, with and without a pending source. -/
theorem witness_halted :
    let s : State := { waiting 0x10 0x10 with runState := .halted }
    let t : State := { waiting 0x0F 0x10 with runState := .halted }
    s.runState = .halted ∧ s.ime = false ∧ (s.peek 0xFFFF &&& s.peek 0xFF0F &&& 0x1F) ≠ 0 ∧
      t.runState = .halted ∧ (t.peek 0xFFFF &&& t.peek 0xFF0F &&& 0x1F) = 0 := by decide +kernel

/-- `DecodeOfEncode`, `EncodeOfDecode`: a well-formed instruction whose operands are all ones. -/
theorem witness_encode :
    WellFormed (.setR 7 .a) = true ∧ decode [0xCB, 0xFF, 0x00] = .ok (.setR 7 .a, [0x00]) := by decide +kernel

/-- `LogicResult`: the bits at both ends of its range. -/
theorem witness_logic : (0 : Nat) < 8 ∧ (7 : Nat) < 8 := by decide

/-- `DaaAfterAddOrSub`: 99 and 99, and 0 and 99. -/
theorem witness_daa :
    ((99 : Nat) < 100 ∧ (0x99 : Byte).toNat = 99 / 10 * 16 + 99 % 10) ∧
    ((0 : Nat) < 100 ∧ (0x00 : Byte).toNat = 0 / 10 * 16 + 0 % 10) := by decide

/-- `RotatesDifferOnlyInZ`: a pair of the list. -/
theorem witness_rotates :
    (Instr.rra, Instr.rrR .a) ∈ [(Instr.rlca, Instr.rlcR .a), (.rrca, .rrcR .a), (.rla, .rlR .a), (.rra, .rrR .a)] := by
  decide

/-- `LoadRegisterResult`: the soft break is on and 0x40 is next. -/
theorem witness_soft_break :
    let s : State := { start [0x40] with softBreak := true }
    s.runState = .running ∧ s.softBreak = true ∧ s.answer s.pc = 0x40 := by decide +kernel

/-- `PushResult`: AF, with the flag byte's low nibble zero. -/
theorem witness_push : ({ State.reset with f := 0xF0 } : State).f &&& 0x0F = 0 := by decide

/-- `ConditionalTransferResult`: every condition holds somewhere and fails somewhere. -/
theorem witness_conditions :
    (∀ cc ∈ [Cond.nz, .nc], condHolds 0x00 cc = true ∧ condHolds 0xF0 cc = false) ∧
    (∀ cc ∈ [Cond.z, .c], condHolds 0x00 cc = false ∧ condHolds 0xF0 cc = true) := by decide

/-- `SystemInstructionResult`: the first and the last illegal byte. -/
theorem witness_illegal_set : 0xD3#8 ∈ Config.illegalSet ∧ 0xFD#8 ∈ Config.illegalSet := by decide

/-- `HaltResult`: IME off with JOYPAD pending, and a bit above the used five only. -/
theorem witness_halt :
    ((waiting 0x10 0x10).ime = false ∧ ((waiting 0x10 0x10).peek 0xFFFF &&& (waiting 0x10 0x10).peek 0xFF0F &&& 0x1F) != 0) ∧
    ((waiting 0xE0 0xE0).peek 0xFFFF &&& (waiting 0xE0 0xE0).peek 0xFF0F &&& 0x1F) = 0 := by decide +kernel

/-- `DispatcherServicesHighestPending`, `RetiUndoesEntry`: both branches, and a call that services. -/
theorem witness_dispatch :
    ({ waiting 0x10 0x10 with ime := true } : State).handleInterrupt.1 = true ∧
    ({ waiting 0x0F 0x10 with ime := true } : State).handleInterrupt.1 = false ∧
    (waiting 0x10 0x10).handleInterrupt.1 = false := by decide +kernel

/-- `QuietRoundIsOneDispatch`, `HaltedCoreStaysHalted`: no action is scheduled, nothing is pending. -/
theorem witness_quiet :
    let s : State := { waiting 0x0F 0x10 with runState := .halted }
    s.inputs = [] ∧ s.runState = .halted ∧ s.interruptPending = false := by decide +kernel

/-- `InterruptServicedAtRequestTick`: the first and the last tick of a four-tick round. -/
theorem witness_latency :
    ∀ k ∈ [0, 3],
      let s : State := { waiting 0x10 0x00 with ime := true, inputs := List.replicate k [] ++ [[.request .joypad]] }
      k < 4 ∧ s.ime = true ∧ s.interruptEnable &&& s.interruptFlag = 0 ∧
        s.interruptEnable.getLsbD Source.joypad.bit = true := by decide +kernel

/-- `EiTakesEffectAtOnce`: `EI` next, a source pending, the tick count not 0. -/
theorem witness_ei :
    let s := ((start [0xFB]).poke 0xFFFF 0x10).poke 0xFF0F 0x10
    s.runState = .running ∧ s.haltBug = false ∧ s.inputs = [] ∧ s.answer s.pc = 0xFB ∧
      (s.readByte s.pc).2.interruptPending = true ∧ s.ticksAt [0xFB] true 4 ≠ 0 := by decide +kernel

/-- `IllegalTakesNoTime`: an illegal byte next, which the environment has just stored there. -/
theorem witness_illegal :
    let c := ({ start [0x00] with inputs := [[.busWrite 0x0100 0xFD]] } : State).beginRound
    c.runState = .running ∧ c.answer c.pc ∈ Config.illegalSet := by decide +kernel

/-- `DebugHooksSetPaused`: a running core. -/
theorem witness_running : State.reset.runState = .running := rfl

/-- `StepKeepsInvariant`: the invariant with the bug armed. -/
theorem witness_inv : ({ waiting 0x01 0x01 with haltBug := true, f := 0xF0 } : State).Inv := by decide +kernel

end Sys2Proof.Tests
end

section
/-! The dispatcher along a quiet round (R8, R285): the clock takes no part in a call, a call leaves nothing for the next one to
do, and so of the passes of the host's loop only the first acts. -/

namespace Sys2Proof.Machine

/-! ## Waking -/

@[simp] theorem State.wake_ime (s : State) : s.wake.ime = s.ime := by rw [State.wake_eq]
@[simp] theorem State.wake_inputs (s : State) : s.wake.inputs = s.inputs := by rw [State.wake_eq]
@[simp] theorem State.wake_clock (s : State) : s.wake.clock = s.clock := by rw [State.wake_eq]
@[simp] theorem State.wake_bus (s : State) : s.wake.bus = s.bus := by rw [State.wake_eq]

theorem State.interruptPending_wake (s : State) : s.wake.interruptPending = s.interruptPending := by
  simp only [State.interruptPending, State.interruptEnable, State.interruptFlag, State.wake_bus]

/-- With a source pending the core is running after a wake, whatever it was before. -/
theorem State.wake_runState_of_pending {s : State} (h : s.interruptPending = true) : s.wake.runState = .running := by
  simp only [State.wake_eq, h, if_true]

/-- There is nothing to wake in a running core. -/
theorem State.wake_of_running {s : State} (h : s.runState = .running) : s.wake = s := by
  unfold State.wake
  simp [h]

/-- There is nothing to wake when no source is pending. -/
theorem State.wake_of_not_pending {s : State} (h : s.interruptPending = false) : s.wake = s := by
  unfold State.wake
  simp [h]

theorem State.wake_wake (s : State) : s.wake.wake = s.wake := by
  cases h : s.interruptPending with
  | false => rw [State.wake_of_not_pending h, State.wake_of_not_pending h]
  | true => exact State.wake_of_running (State.wake_runState_of_pending h)

theorem State.wake_charge (s : State) (n : Nat) : (s.charge n).wake = s.wake.charge n := by
  rw [State.wake_eq, State.wake_eq]
  rfl

/-! ## One dispatcher call -/

/-- With IME off, or no source both enabled and requested, a call does no more than wake (R285 steps 1 and 2). -/
theorem State.handleInterrupt_of_no_service {s : State}
    (h : s.ime = false ∨ s.interruptEnable &&& s.interruptFlag = 0) : s.handleInterrupt = (false, s.wake) := by
  rcases State.handleInterrupt_cases s with ⟨e, -⟩ | ⟨src, -, hi, hs⟩
  · exact e
  · rcases h with h | h
    · exact absurd hi (by simp [h])
    · simp [highestSource_eq_none.mpr h] at hs

/-- With IME on, the source of highest priority is entered (R285 step 3). -/
theorem State.handleInterrupt_of_service {s : State} {src : Source} (hi : s.ime = true)
    (hs : highestSource (s.interruptEnable &&& s.interruptFlag) = some src) :
    s.handleInterrupt = (true, s.wake.enterInterrupt src) := by
  rcases State.handleInterrupt_cases s with ⟨-, h | h⟩ | ⟨src', e, -, hs'⟩
  · exact absurd hi (by simp [h])
  · simp [highestSource_eq_none.mpr h] at hs
  · rwa [Option.some.inj (hs.symm.trans hs')]

/-- A source that is chosen is pending (R282). -/
theorem State.interruptPending_of_highestSource {s : State} {src : Source}
    (hs : highestSource (s.interruptEnable &&& s.interruptFlag) = some src) : s.interruptPending = true := by
  refine bne_iff_ne.mpr fun h => ?_
  simp [highestSource_eq_none.mpr h] at hs

/-- The dispatcher makes no use of the clock and does not change it. -/
theorem State.handleInterrupt_charge (s : State) (n : Nat) :
    (s.charge n).handleInterrupt = (s.handleInterrupt.1, s.handleInterrupt.2.charge n) := by
  rcases State.handleInterrupt_cases s with ⟨e, h⟩ | ⟨src, e, hi, hs⟩
  · rw [State.handleInterrupt_of_no_service (s := s.charge n) h, State.wake_charge, e]
  · rw [State.handleInterrupt_of_service (s := s.charge n) hi hs, State.wake_charge, e, State.enterInterrupt_eq,
      State.enterInterrupt_eq]
    rfl

@[simp] theorem State.handleInterrupt_clock (s : State) : s.handleInterrupt.2.clock = s.clock := by
  rcases State.handleInterrupt_cases s with ⟨e, -⟩ | ⟨src, e, -, -⟩ <;> simp [e, State.enterInterrupt_eq]

@[simp] theorem State.handleInterrupt_inputs (s : State) : s.handleInterrupt.2.inputs = s.inputs := by
  rcases State.handleInterrupt_cases s with ⟨e, -⟩ | ⟨src, e, -, -⟩ <;> simp [e, State.enterInterrupt_eq]

/-- A call right after another finds nothing to do: a service turns IME off and leaves the core running, and a call that does not
service has woken the core already and leaves IME and the pending sources as they are. -/
theorem State.handleInterrupt_handleInterrupt (s : State) :
    s.handleInterrupt.2.handleInterrupt = (false, s.handleInterrupt.2) := by
  rcases State.handleInterrupt_cases s with ⟨e, h⟩ | ⟨src, e, -, hs⟩
  · have hw : s.wake.ime = false ∨ s.wake.interruptEnable &&& s.wake.interruptFlag = 0 := by
      simpa only [State.wake_ime, State.interruptEnable, State.interruptFlag, State.wake_bus] using h
    rw [e, State.handleInterrupt_of_no_service hw, State.wake_wake]
  · have hr : (s.wake.enterInterrupt src).runState = .running := by
      rw [State.enterInterrupt_eq]
      exact State.wake_runState_of_pending (State.interruptPending_of_highestSource hs)
    have hi : (s.wake.enterInterrupt src).ime = false := by rw [State.enterInterrupt_eq]
    rw [e, State.handleInterrupt_of_no_service (.inl hi), State.wake_of_running hr]

/-! ## The host's loop with a quiet environment -/

theorem State.envGap_of_quiet {s : State} (h : s.inputs = []) : s.envGap = s := by
  simp only [State.envGap, h]

theorem State.charge_charge (s : State) (m n : Nat) : (s.charge m).charge n = s.charge (m + n) := by
  simp only [State.charge, Nat.add_assoc]

/-- One pass is one dispatcher call, and the clock charged (R8, R335). -/
theorem State.hostTick_of_quiet {s : State} (h : s.inputs = []) :
    s.hostTick = s.handleInterrupt.2.charge (1 + if s.handleInterrupt.1 then 20 else 0) := by
  have hq : (s.charge 1).envGap = s.charge 1 := State.envGap_of_quiet h
  simp only [State.hostTick, hq, State.handleInterrupt_charge]
  split
  · exact State.charge_charge _ _ _
  · rfl

/-- Where a dispatcher call would do nothing, the passes do no more than count ticks. -/
theorem State.hostTicks_of_idle (n : Nat) :
    ∀ {s : State}, s.inputs = [] → s.handleInterrupt = (false, s) → s.hostTicks n = s.charge n := by
  induction n with
  | zero => exact fun _ _ => rfl
  | succ n ih =>
    intro s hq hd
    have hd' : (s.charge 1).handleInterrupt = (false, s.charge 1) := by rw [State.handleInterrupt_charge, hd]
    calc s.hostTicks (n + 1) = (s.charge 1).hostTicks n := by
          rw [State.hostTicks, State.hostTick_of_quiet hq, hd]
          rfl
      _ = (s.charge 1).charge n := ih hq hd'
      _ = s.charge (n + 1) := by rw [State.charge_charge, Nat.add_comm]

/-- Of the passes of a quiet round only the first does more than count a tick. -/
theorem State.hostTicks_of_quiet {s : State} (h : s.inputs = []) (n : Nat) :
    s.hostTicks (n + 1) = s.handleInterrupt.2.charge (n + 1 + if s.handleInterrupt.1 then 20 else 0) := by
  have hd := State.handleInterrupt_handleInterrupt s
  rw [State.hostTicks, State.hostTick_of_quiet h, State.hostTicks_of_idle n]
  · rw [State.charge_charge]
    congr 1
    omega
  · exact (State.handleInterrupt_inputs s).trans h
  · rw [State.handleInterrupt_charge, hd]

/-- Settles O53: after the first call of a quiet round nothing is left to wake or to service, and the clock takes no part in a
call, so the other passes only count ticks. -/
theorem quietRoundIsOneDispatch : Obligations.QuietRoundIsOneDispatch := by
  intro s n h
  simp only [State.hostTicks_of_quiet h, State.charge, State.handleInterrupt_clock, Nat.add_assoc]

end Sys2Proof.Machine
end

section
/-! What executing an instruction can touch (R16, R22 to R24, R36): `exec` always answers a next state, and that state follows the
one before by an ordinary change, once the control effect of `HALT`, `STOP`, `DI`, `EI` and `RETI` is set aside. -/

namespace Sys2Proof.Machine

/-! ## PREFIX CB is the entry it selects -/

theorem exec_decodeRotR (y : BitVec 3) (r : Reg8) (s : State) : exec (decodeRotR y r) s = execRotR y r s := by
  have hy : ∀ y : BitVec 3, y = 0 ∨ y = 1 ∨ y = 2 ∨ y = 3 ∨ y = 4 ∨ y = 5 ∨ y = 6 ∨ y = 7 := by decide
  rcases hy y with rfl | rfl | rfl | rfl | rfl | rfl | rfl | rfl <;> rfl

theorem exec_decodeRotHL (y : BitVec 3) (s : State) : exec (decodeRotHL y) s = execRotHL y s := by
  have hy : ∀ y : BitVec 3, y = 0 ∨ y = 1 ∨ y = 2 ∨ y = 3 ∨ y = 4 ∨ y = 5 ∨ y = 6 ∨ y = 7 := by decide
  rcases hy y with rfl | rfl | rfl | rfl | rfl | rfl | rfl | rfl <;> rfl

/-- The meaning of `PREFIX CB` is that of the entry its byte decodes to (R271, R82). -/
theorem exec_prefixCB (cb : Byte) (s : State) : exec (.prefixCB cb) s = exec (decodeCB cb) s := by
  have hx : ∀ x : BitVec 2, x = 0 ∨ x = 1 ∨ x = 2 ∨ x = 3 := by decide
  show execPrefixCB cb s = _
  unfold execPrefixCB decodeCB
  generalize regOfIndex (fieldZ cb) = operand
  rcases hx (fieldX cb) with h | h | h | h <;> rw [h]
  · cases operand with
    | none => exact (exec_decodeRotHL _ s).symm
    | some r => exact (exec_decodeRotR _ r s).symm
  all_goals cases operand <;> rfl

theorem WellFormed_decodeCB (cb : Byte) : WellFormed (decodeCB cb) = true := by
  revert cb
  decide +kernel

theorem WritesFlags_decodeCB (cb : Byte) : WritesFlags (decodeCB cb) = WritesFlags (.prefixCB cb) := by
  revert cb
  decide +kernel

/-- To speak of every instruction it is enough to speak of those with a meaning of their own, and to carry what is said over from
an entry of the secondary table to the `PREFIX CB` that selects it. -/
theorem Instr.prefixCB_induction {P : Instr → Prop} (direct : ∀ i, (∀ cb, i ≠ .prefixCB cb) → P i)
    (prefixCB : ∀ cb, P (decodeCB cb) → P (.prefixCB cb)) (i : Instr) : P i := by
  by_cases h : ∃ cb, i = .prefixCB cb
  · obtain ⟨cb, rfl⟩ := h
    refine prefixCB cb (direct _ fun x hx => ?_)
    have hwf := WellFormed_decodeCB cb
    rw [hx] at hwf
    exact Bool.noConfusion hwf
  · exact direct i fun cb hi => h ⟨cb, hi⟩

/-! ## Ordinary changes -/

/-- The parts of a state that no data instruction touches: the control state, the debug fields, the environment's schedule, the
clock and the tick table. The other parts are set to their reset values. -/
def State.steady (s : State) : State :=
  { State.reset with
    ime := s.ime, runState := s.runState, haltBug := s.haltBug
    breakpoint := s.breakpoint, paused := s.paused, softBreak := s.softBreak
    inputs := s.inputs, clock := s.clock, ticks := s.ticks }

theorem State.steady_eq_iff {s t : State} :
    t.steady = s.steady ↔ t.ime = s.ime ∧ t.runState = s.runState ∧ t.haltBug = s.haltBug ∧
      SamePart s t .debug ∧ SamePart s t .env ∧ SamePart s t .ticks := by
  simp only [State.steady, SamePart, State.mk.injEq, true_and, and_true]
  tauto

/-- `t` follows `s` by a change of registers, bus and outputs, and of the flag byte only where `w` allows it; the flag byte's low
nibble stays zero (R13) and the bytes the bus holds stay in canonical form. -/
structure Ordinary (w : Bool) (s t : State) : Prop where
  flags : w = false → t.f = s.f
  lowNibble : s.f &&& 0x0F = 0 → t.f &&& 0x0F = 0
  wf : Memory.wf s.bus.mem → Memory.wf t.bus.mem
  steady : t.steady = s.steady

namespace Ordinary

variable {w : Bool} {s t u : State}

/-- A change of registers and outputs alone. -/
theorem of_eq (hf : t.f = s.f) (hbus : t.bus = s.bus) (hsteady : t.steady = s.steady) : Ordinary w s t where
  flags _ := hf
  lowNibble h := by rwa [hf]
  wf h := by rwa [hbus]
  steady := hsteady

theorem trans (h : Ordinary w s t) (h' : Ordinary w t u) : Ordinary w s u where
  flags hw := (h'.flags hw).trans (h.flags hw)
  lowNibble := h'.lowNibble ∘ h.lowNibble
  wf := h'.wf ∘ h.wf
  steady := h'.steady.trans h.steady

theorem setPC (s : State) (addr : Word) : Ordinary w s { s with pc := addr } := of_eq rfl rfl rfl

theorem setSP (s : State) (addr : Word) : Ordinary w s { s with sp := addr } := of_eq rfl rfl rfl

theorem setReg (s : State) (r : Reg8) (v : Byte) : Ordinary w s (s.setReg r v) := by
  cases r <;> exact of_eq rfl rfl rfl

theorem setRP (s : State) (p : RegPair) (v : Word) : Ordinary w s (s.setRP p v) := by
  cases p <;> exact of_eq rfl rfl rfl

theorem setHL (s : State) (v : Word) : Ordinary w s (s.setHL v) := of_eq rfl rfl rfl

theorem setFlags (s : State) (z n h c : Option Bool) : Ordinary true s (s.setFlags z n h c) where
  flags hw := Bool.noConfusion hw
  lowNibble hs := (lowNibble_putBits z n h c s.f).trans hs
  wf := id
  steady := rfl

/-- A write of a pair other than AF. -/
theorem setPair (s : State) {p : StackPair} (hp : p ≠ .af) (v : Word) : Ordinary w s (s.setPair p v) := by
  cases p with
  | af => exact absurd rfl hp
  | bc => exact of_eq rfl rfl rfl
  | de => exact of_eq rfl rfl rfl
  | hl => exact of_eq rfl rfl rfl

/-- A write of AF drops the low nibble (R13). -/
theorem setPair_af (s : State) (v : Word) : Ordinary true s (s.setPair .af v) where
  flags hw := Bool.noConfusion hw
  lowNibble _ := by
    show lo8 v &&& 0xF0 &&& 0x0F = 0
    rw [BitVec.and_assoc]
    exact BitVec.and_zero
  wf := id
  steady := rfl

theorem readByte (s : State) (addr : Word) : Ordinary w s (s.readByte addr).2 where
  flags _ := rfl
  lowNibble := id
  wf h := State.wf_readByte h addr
  steady := rfl

theorem writeByte (s : State) (addr : Word) (v : Byte) : Ordinary w s (s.writeByte addr v) where
  flags _ := rfl
  lowNibble := id
  wf h := State.wf_writeByte h addr v
  steady := rfl

theorem writeWord (s : State) (addr v : Word) : Ordinary w s (s.writeWord addr v) :=
  (writeByte s _ _).trans (writeByte _ _ _)

theorem pushWord (s : State) (v : Word) : Ordinary w s (s.pushWord v) :=
  (setSP s _).trans (writeWord _ _ _)

theorem popWord (s : State) : Ordinary w s s.popWord.2 :=
  ((readByte s _).trans (readByte _ _)).trans (setSP _ _)

theorem popPC (s : State) : Ordinary w s s.popPC := (popWord s).trans (setPC _ _)

theorem callTo (s : State) (target : Word) : Ordinary w s (s.callTo target) :=
  (pushWord s _).trans (setPC _ _)

theorem loadA (s : State) (addr : Word) : Ordinary w s (s.loadA addr) := (readByte s _).trans (setReg _ .a _)

theorem setAlu (s : State) (o : AluOut) : Ordinary true s (s.setAlu o) :=
  (setReg s .a _).trans (setFlags _ _ _ _ _)

theorem rotateA (s : State) (op : Byte → Byte × Bool) : Ordinary true s (s.rotateA op) :=
  (setReg s .a _).trans (setFlags _ _ _ _ _)

theorem shiftReg (s : State) (op : Byte → Byte × Bool) (r : Reg8) : Ordinary true s (s.shiftReg op r) :=
  (setReg s r _).trans (setFlags _ _ _ _ _)

theorem modifyHL (s : State) (op : Byte → Byte) : Ordinary w s (s.modifyHL op) :=
  (readByte s _).trans (writeByte _ _ _)

theorem shiftHL (s : State) (op : Byte → Byte × Bool) : Ordinary true s (s.shiftHL op) :=
  (modifyHL s fun v => (op v).1).trans (setFlags _ _ _ _ _)

/-- The end of an instruction records its ticks. -/
theorem finish (h : Ordinary w s t) (i : Instr) : ∃ u, t.finish i = .next u ∧ Ordinary w s u :=
  ⟨_, rfl, h.trans (of_eq rfl rfl rfl)⟩

/-- A conditional instruction is ordinary whether or not its condition holds. -/
theorem finish_ite (h : Ordinary w s t) (taken : Bool) (i : Instr) :
    ∃ u, (if taken then t.finish i else s.finishNotTaken i) = .next u ∧ Ordinary w s u := by
  cases taken with
  | true => exact h.finish i
  | false => exact ⟨_, rfl, of_eq rfl rfl rfl⟩

end Ordinary

/-! ## The control effect of an instruction -/

/-- What an instruction does to the control state (R266 to R270). -/
def controlEffect (i : Instr) (s : State) : State :=
  match i with
  | .halt => if s.ime = false ∧ s.interruptPending = true then { s with haltBug := true } else { s with runState := .halted }
  | .stop => { s with runState := .halted }
  | .di => { s with ime := false }
  | .ei | .reti => { s with ime := true }
  | _ => s

/-- `HALT` with IME off and a source pending arms the HALT bug; otherwise the core halts (R266). -/
theorem controlEffect_halt (s : State) :
    controlEffect .halt s =
      if s.ime = false ∧ s.interruptPending = true then { s with haltBug := true } else { s with runState := .halted } :=
  rfl

theorem exec_halt (s : State) : exec .halt s = (controlEffect .halt s).finish .halt := by
  show execHalt s = _
  rw [controlEffect_halt]
  unfold execHalt
  cases s.ime <;> cases s.interruptPending <;> rfl

theorem controlEffect_prefixCB (cb : Byte) (s : State) : controlEffect (.prefixCB cb) s = controlEffect (decodeCB cb) s := by
  have h : ∀ cb, decodeCB cb ∉ [.halt, .stop, .di, .ei, .reti] := by decide +kernel
  specialize h cb
  show s = _
  unfold controlEffect
  split <;> simp_all

/-- The control effect changes `run_state`, `halt_bug` and IME, nothing else. -/
theorem controlEffect_eq (i : Instr) (s : State) :
    controlEffect i s = { s with
      ime := (controlEffect i s).ime
      runState := (controlEffect i s).runState
      haltBug := (controlEffect i s).haltBug } := by
  unfold controlEffect
  split
  · split <;> rfl
  all_goals rfl

/-- Everything an instruction can do: it answers a next state (R280), which follows its control effect by an ordinary change, of
the flag byte only if it is in the flag-effect index (R16). -/
theorem exec_ordinary (i : Instr) (s : State) :
    ∃ t, exec i s = .next t ∧ Ordinary (WritesFlags i) (controlEffect i s) t := by
  induction i using Instr.prefixCB_induction with
  | prefixCB cb ih => rwa [exec_prefixCB, ← WritesFlags_decodeCB, controlEffect_prefixCB]
  | direct i hi =>
    cases i with
    | prefixCB cb => exact absurd rfl (hi cb)
    | halt => rw [exec_halt]; exact Ordinary.finish (.of_eq rfl rfl rfl) _
    | reti => exact Ordinary.finish (.popPC { s with ime := true }) _
    | nop | stop | di | ei => exact Ordinary.finish (.of_eq rfl rfl rfl) _
    | jpNN | jpHL | jrE => exact Ordinary.finish (.setPC s _) _
    | ldSPHL => exact Ordinary.finish (.setSP s _) _
    | illegal op => exact ⟨_, rfl, .of_eq rfl rfl rfl⟩
    | jpCond | jrCond => exact Ordinary.finish_ite (.setPC s _) _ _
    | callCond => exact Ordinary.finish_ite (.callTo s _) _ _
    | retCond => exact Ordinary.finish_ite (.popPC s) _ _
    | callNN | rst => exact Ordinary.finish (.callTo s _) _
    | ret => exact Ordinary.finish (.popPC s) _
    | pushPair => exact Ordinary.finish (.pushWord s _) _
    | popAF => exact Ordinary.finish ((Ordinary.popWord s).trans (.setPair_af _ _)) _
    | popPair p =>
      cases p with
      | af => exact Ordinary.finish ((Ordinary.popWord s).trans (.setPair_af _ _)) _
      | bc | de | hl => exact Ordinary.finish ((Ordinary.popWord s).trans (.setPair _ (by decide) _)) _
    | ldRR | ldRN | resR | setR => exact Ordinary.finish (.setReg s _ _) _
    | ldPairNN | incPair | decPair => exact Ordinary.finish (.setRP s _ _) _
    | ldRAtHL => exact Ordinary.finish ((Ordinary.readByte s _).trans (.setReg _ _ _)) _
    | ldAAtBC | ldAAtDE | ldAAtNN | ldhAAtC | ldhAAtN => exact Ordinary.finish (.loadA s _) _
    | ldAAtHLInc | ldAAtHLDec => exact Ordinary.finish ((Ordinary.loadA s _).trans (.setHL _ _)) _
    | ldAtHLR | ldAtHLN | ldAtBCA | ldAtDEA | ldAtNNA | ldhAtCA | ldhAtNA => exact Ordinary.finish (.writeByte s _ _) _
    | ldAtHLIncA | ldAtHLDecA => exact Ordinary.finish ((Ordinary.writeByte s _ _).trans (.setHL _ _)) _
    | ldAtNNSP => exact Ordinary.finish (.writeWord s _ _) _
    | resAtHL | setAtHL => exact Ordinary.finish (.modifyHL s _) _
    | addR | adcR | subR | sbcR | andR | xorR | orR | addN | adcN | subN | sbcN | andN | xorN | orN =>
      exact Ordinary.finish (.setAlu s _) _
    | addAtHL | adcAtHL | subAtHL | sbcAtHL | andAtHL | xorAtHL | orAtHL =>
      exact Ordinary.finish ((Ordinary.readByte s _).trans (.setAlu _ _)) _
    | cpR | cpN | scf | ccf | bitR => exact Ordinary.finish (.setFlags s _ _ _ _) _
    | cpAtHL | bitAtHL => exact Ordinary.finish ((Ordinary.readByte s _).trans (.setFlags _ _ _ _ _)) _
    | incR | decR => exact Ordinary.finish ((Ordinary.setReg s _ _).trans (.setFlags _ _ _ _ _)) _
    | incAtHL | decAtHL =>
      exact Ordinary.finish (((Ordinary.readByte s _).trans (.writeByte _ _ _)).trans (.setFlags _ _ _ _ _)) _
    | daa | cpl => exact Ordinary.finish ((Ordinary.setReg s .a _).trans (.setFlags _ _ _ _ _)) _
    | addHLPair | ldHLSPE => exact Ordinary.finish ((Ordinary.setHL s _).trans (.setFlags _ _ _ _ _)) _
    | addSPE => exact Ordinary.finish ((Ordinary.setSP s _).trans (.setFlags _ _ _ _ _)) _
    | rlca | rrca | rla | rra => exact Ordinary.finish (.rotateA s _) _
    | rlcR | rrcR | rlR | rrR | slaR | sraR | swapR | srlR => exact Ordinary.finish (.shiftReg s _ _) _
    | rlcAtHL | rrcAtHL | rlAtHL | rrAtHL | slaAtHL | sraAtHL | swapAtHL | srlAtHL =>
      exact Ordinary.finish (.shiftHL s _) _

theorem ordinary_of_exec {i : Instr} {s t : State} (h : exec i s = .next t) :
    Ordinary (WritesFlags i) (controlEffect i s) t := by
  obtain ⟨u, hu, ho⟩ := exec_ordinary i s
  rwa [Host.Outcome.next.inj (h.symm.trans hu)]

/-! ## A round -/

theorem cpuStep_halted {s : State} (h : s.runState = .halted) : cpuStep s = .next (s.setCycles cycHalted) := by
  rw [cpuStep, State.prepare_halted h]

theorem cpuStep_running {s : State} (h : s.runState = .running) : cpuStep s = exec s.fetchInstr.1 s.fetchInstr.2 := by
  rw [cpuStep, State.prepare_running h]

/-- The core's step is total (R280). -/
theorem cpuStep_total (s : State) : ∃ t, cpuStep s = .next t := by
  cases hr : s.runState with
  | halted => exact ⟨_, cpuStep_halted hr⟩
  | running =>
    obtain ⟨t, ht, -⟩ := exec_ordinary s.fetchInstr.1 s.fetchInstr.2
    exact ⟨t, (cpuStep_running hr).trans ht⟩

theorem step_of_cpuStep {s t : State} (h : cpuStep s.beginRound = .next t) :
    step s = .next (t.hostTicks t.cycles.toNat) := by
  rw [step, h]
  rfl

theorem run_succ_of_next (M : Host.Core) {s t : M.State} (h : M.step s = .next t) (k : Nat) :
    M.run (k + 1) s = M.run k t := by
  rw [Host.Core.run, h]

theorem run_succ_of_step {s t : State} (h : step s = .next t) (k : Nat) : core.run (k + 1) s = core.run k t :=
  run_succ_of_next core h k

/-! ## Who writes the flags and the control state -/

/-- Settles O4: the control effect of an instruction leaves the flag byte alone, and an ordinary change touches it only where
the flag-effect index allows. -/
theorem onlyListedInstructionsWriteFlags : Obligations.OnlyListedInstructionsWriteFlags := by
  intro i s t h hw
  have ho := ordinary_of_exec h
  rw [ho.flags hw, controlEffect_eq]

theorem controlEffect_runState {i : Instr} {s : State} (h : (controlEffect i s).runState ≠ s.runState) :
    i = .halt ∨ i = .stop := by
  cases i with
  | halt => exact .inl rfl
  | stop => exact .inr rfl
  | _ => exact absurd rfl h

theorem controlEffect_haltBug {i : Instr} {s : State} (h : (controlEffect i s).haltBug ≠ s.haltBug) : i = .halt := by
  cases i with
  | halt => rfl
  | _ => exact absurd rfl h

theorem controlEffect_ime {i : Instr} {s : State} (h : (controlEffect i s).ime ≠ s.ime) :
    i = .di ∨ i = .ei ∨ i = .reti := by
  cases i with
  | di => exact .inl rfl
  | ei => exact .inr (.inl rfl)
  | reti => exact .inr (.inr rfl)
  | halt =>
    refine absurd ?_ h
    rw [controlEffect_halt]
    split <;> rfl
  | _ => exact absurd rfl h

/-- Settles O5: an ordinary change leaves the control state, the debug fields, the schedule, the clock and the tick table as the
control effect left them, and that changes a control field only for the instructions listed. -/
theorem onlyListedInstructionsWriteControl : Obligations.OnlyListedInstructionsWriteControl := by
  intro i s t h
  have hs : t.steady = (controlEffect i s).steady := (ordinary_of_exec h).steady
  rw [controlEffect_eq, State.steady_eq_iff] at hs
  obtain ⟨hime, hrun, hbug, hdebug, henv, hticks⟩ := hs
  exact ⟨fun hne => controlEffect_runState (hrun ▸ hne), fun hne => controlEffect_haltBug (hbug ▸ hne),
    fun hne => controlEffect_ime (hime ▸ hne), hdebug, henv, hticks⟩

end Sys2Proof.Machine
end

section
/-! The debug fields and the rest of the machine (R36, R300): every part of a round, run from two states that differ in the debug
fields only, ends in two states that differ in them only. -/

namespace Sys2Proof.Machine

/-- The state with the debug fields given. -/
def State.setDebug (s : State) (bp : Option Word) (p sb : Bool) : State :=
  { s with breakpoint := bp, paused := p, softBreak := sb }

/-- Two states are equal but for the debug fields exactly when one is the other with the debug fields written. -/
theorem State.withoutDebug_eq_iff {s u : State} :
    s.withoutDebug = u.withoutDebug ↔ ∃ bp p sb, u = s.setDebug bp p sb := by
  constructor
  · intro h
    exact ⟨u.breakpoint, u.paused, u.softBreak,
      (congrArg (fun x : State => x.setDebug u.breakpoint u.paused u.softBreak) h).symm⟩
  · rintro ⟨bp, p, sb, rfl⟩
    rfl

section
variable (s : State) (bp : Option Word) (p sb : Bool)

/-! ## An instruction -/

theorem exec_halt_setDebug : exec .halt (s.setDebug bp p sb) = ((controlEffect .halt s).setDebug bp p sb).finish .halt := by
  rw [exec_halt, controlEffect_halt, controlEffect_halt, apply_ite (fun u : State => u.setDebug bp p sb)]
  rfl

/-- The end of a conditional instruction (R337). -/
theorem finish_ite_setDebug {taken : Bool} {u t : State} {i : Instr}
    (h : (if taken then u.finish i else s.finishNotTaken i) = .next t) :
    (if taken then (u.setDebug bp p sb).finish i else (s.setDebug bp p sb).finishNotTaken i) =
      .next (t.setDebug bp p sb) := by
  cases taken <;> cases h <;> rfl

/-- An instruction neither reads nor writes the debug fields. -/
theorem exec_setDebug {i : Instr} {t : State} (h : exec i s = .next t) :
    exec i (s.setDebug bp p sb) = .next (t.setDebug bp p sb) := by
  induction i using Instr.prefixCB_induction with
  | prefixCB cb ih =>
    rw [exec_prefixCB] at h ⊢
    exact ih h
  | direct i hi =>
    cases i with
    | prefixCB cb => exact absurd rfl (hi cb)
    | halt =>
      rw [exec_halt] at h
      cases h
      exact exec_halt_setDebug s bp p sb
    | jpCond | jrCond | callCond | retCond =>
      have hnext := finish_ite_setDebug s bp p sb h
      exact hnext
    | ldRR r | ldRN r | ldRAtHL r | incR r | decR r | resR _ r | setR _ r
    | rlcR r | rrcR r | rlR r | rrR r | slaR r | sraR r | swapR r | srlR r =>
      cases h
      cases r <;> rfl
    | ldPairNN q | incPair q | decPair q | popPair q =>
      cases h
      cases q <;> rfl
    | _ =>
      cases h
      rfl

/-! ## The fetch -/

theorem State.readByte_setDebug (addr : Word) :
    (s.setDebug bp p sb).readByte addr = ((s.readByte addr).1, (s.readByte addr).2.setDebug bp p sb) := rfl

theorem State.readBytes_setDebug (addrs : List Word) : ∀ s : State,
    (s.setDebug bp p sb).readBytes addrs = ((s.readBytes addrs).1, (s.readBytes addrs).2.setDebug bp p sb) := by
  induction addrs with
  | nil => exact fun _ => rfl
  | cons addr addrs ih =>
    intro s
    simp only [State.readBytes, State.readByte_setDebug, ih]

/-- The fetch finds the same instruction whatever the debug fields hold. -/
theorem State.fetchInstr_setDebug : (s.setDebug bp p sb).fetchInstr.1 = s.fetchInstr.1 := by
  rw [State.fetchInstr_eq, State.fetchInstr_eq]
  rfl

/-- Of the state the fetch leaves, only the debug fields depend on the debug fields. -/
theorem State.fetchInstr_withoutDebug :
    (s.setDebug bp p sb).fetchInstr.2.withoutDebug = s.fetchInstr.2.withoutDebug := by
  rw [State.fetchInstr_eq, State.fetchInstr_eq]
  dsimp only
  rw [State.readBytes_setDebug]
  rfl

/-! ## The dispatcher -/

theorem State.wake_setDebug : (s.setDebug bp p sb).wake = s.wake.setDebug bp p sb := by
  rw [State.wake_eq, State.wake_eq]
  rfl

theorem State.handleInterrupt_setDebug :
    (s.setDebug bp p sb).handleInterrupt = (s.handleInterrupt.1, s.handleInterrupt.2.setDebug bp p sb) := by
  rcases State.handleInterrupt_cases s with ⟨e, h⟩ | ⟨src, e, hi, hs⟩
  · rw [State.handleInterrupt_of_no_service (s := s.setDebug bp p sb) h, State.wake_setDebug, e]
  · rw [State.handleInterrupt_of_service (s := s.setDebug bp p sb) hi hs, State.wake_setDebug, e]
    rfl

end

/-! ## The environment and the host's loop -/

section
variable {s u : State}

theorem State.applyEnv_withoutDebug (h : s.withoutDebug = u.withoutDebug) (act : EnvAction) :
    (s.applyEnv act).withoutDebug = (u.applyEnv act).withoutDebug := by
  obtain ⟨bp, p, sb, rfl⟩ := State.withoutDebug_eq_iff.mp h
  cases act <;> rfl

theorem State.applyEnvs_withoutDebug (acts : List EnvAction) : ∀ {s u : State}, s.withoutDebug = u.withoutDebug →
    (s.applyEnvs acts).withoutDebug = (u.applyEnvs acts).withoutDebug := by
  induction acts with
  | nil => exact id
  | cons act acts ih => exact fun h => ih (State.applyEnv_withoutDebug h act)

theorem State.envGap_withoutDebug (h : s.withoutDebug = u.withoutDebug) :
    s.envGap.withoutDebug = u.envGap.withoutDebug := by
  obtain ⟨bp, p, sb, rfl⟩ := State.withoutDebug_eq_iff.mp h
  cases hs : s.inputs with
  | nil => rw [State.envGap_of_quiet hs, State.envGap_of_quiet (s := s.setDebug bp p sb) hs]; exact h
  | cons acts rest =>
    have e : ∀ x : State, x.inputs = acts :: rest → x.envGap = { x with inputs := rest }.applyEnvs acts :=
      fun x hx => by simp only [State.envGap, hx]
    rw [e s hs, e (s.setDebug bp p sb) hs]
    exact State.applyEnvs_withoutDebug acts rfl

theorem State.beginRound_withoutDebug (h : s.withoutDebug = u.withoutDebug) :
    s.beginRound.withoutDebug = u.beginRound.withoutDebug :=
  congrArg (fun x : State => { x with trace := [] }) (State.envGap_withoutDebug h)

theorem State.hostTick_withoutDebug (h : s.withoutDebug = u.withoutDebug) :
    s.hostTick.withoutDebug = u.hostTick.withoutDebug := by
  have hc : (s.charge 1).withoutDebug = (u.charge 1).withoutDebug := congrArg (fun x : State => x.charge 1) h
  obtain ⟨bp, p, sb, e⟩ := State.withoutDebug_eq_iff.mp (State.envGap_withoutDebug hc)
  unfold State.hostTick
  rw [e, State.handleInterrupt_setDebug]
  dsimp only
  split <;> rfl

theorem State.hostTicks_withoutDebug (n : Nat) : ∀ {s u : State}, s.withoutDebug = u.withoutDebug →
    (s.hostTicks n).withoutDebug = (u.hostTicks n).withoutDebug := by
  induction n with
  | zero => exact id
  | succ n ih => exact fun h => ih (State.hostTick_withoutDebug h)

end

/-! ## A round, and any number of rounds -/

/-- Both cores idle, or both execute the same instruction. -/
theorem cpuStep_withoutDebug {s u : State} (h : s.withoutDebug = u.withoutDebug) :
    ∃ t v, cpuStep s = .next t ∧ cpuStep u = .next v ∧ t.withoutDebug = v.withoutDebug := by
  obtain ⟨bp, p, sb, rfl⟩ := State.withoutDebug_eq_iff.mp h
  cases hr : s.runState with
  | halted => exact ⟨_, _, cpuStep_halted hr, cpuStep_halted (s := s.setDebug bp p sb) hr, rfl⟩
  | running =>
    rw [cpuStep_running hr, cpuStep_running (s := s.setDebug bp p sb) hr, State.fetchInstr_setDebug]
    obtain ⟨t, ht, -⟩ := exec_ordinary s.fetchInstr.1 s.fetchInstr.2
    obtain ⟨bp', p', sb', e⟩ := State.withoutDebug_eq_iff.mp (State.fetchInstr_withoutDebug s bp p sb).symm
    rw [e]
    exact ⟨t, _, ht, exec_setDebug _ bp' p' sb' ht, rfl⟩

theorem step_withoutDebug {s u : State} (h : s.withoutDebug = u.withoutDebug) :
    ∃ t v, step s = .next t ∧ step u = .next v ∧ t.withoutDebug = v.withoutDebug := by
  obtain ⟨t, v, ht, hv, he⟩ := cpuStep_withoutDebug (State.beginRound_withoutDebug h)
  have hc : t.cycles = v.cycles := (congrArg State.cycles he : t.withoutDebug.cycles = v.withoutDebug.cycles)
  refine ⟨_, _, step_of_cpuStep ht, step_of_cpuStep hv, ?_⟩
  rw [hc]
  exact State.hostTicks_withoutDebug _ he

theorem run_withoutDebug (k : Nat) : ∀ {s u : State}, s.withoutDebug = u.withoutDebug →
    ∃ t v, core.run k s = .next t ∧ core.run k u = .next v ∧ t.withoutDebug = v.withoutDebug := by
  induction k with
  | zero => exact fun h => ⟨_, _, rfl, rfl, h⟩
  | succ k ih =>
    intro s u h
    obtain ⟨t, v, ht, hv, he⟩ := step_withoutDebug h
    rw [run_succ_of_step ht, run_succ_of_step hv]
    exact ih he

/-- Settles O6: two states that differ in the debug fields only stay so through every round, by induction on the rounds. -/
theorem debugNoninterference : Obligations.DebugNoninterference :=
  fun k _ _ _ _ => run_withoutDebug k rfl

end Sys2Proof.Machine
end

section
/-! The machine's invariant around an instruction and along a round (R13, R23). -/

namespace Sys2Proof.Machine

/-- After the fetch of a running core the HALT bug is not armed (R72). -/
theorem State.fetchInstr_haltBug (s : State) : s.fetchInstr.2.haltBug = false := by rw [State.fetchInstr_eq]

theorem State.fetchInstr_runState (s : State) : s.fetchInstr.2.runState = s.runState := by
  rw [State.fetchInstr_eq]
  dsimp only
  rw [State.readBytes_eq]

/-- The control effect keeps the invariant in a running core with no HALT bug armed: only `HALT` with IME off arms the bug, and
it leaves the core running (R266). -/
theorem State.Inv_controlEffect {s : State} (h : s.Inv) (hr : s.runState = .running) (hb : s.haltBug = false) (i : Instr) :
    (controlEffect i s).Inv := by
  obtain ⟨hf, hm, -⟩ := h
  cases i with
  | halt =>
    rw [controlEffect_halt]
    split
    · next hc => exact ⟨hf, hm, fun _ => ⟨hr, hc.1⟩⟩
    · exact ⟨hf, hm, fun e => Bool.noConfusion (hb.symm.trans e)⟩
  | _ => exact ⟨hf, hm, fun e => Bool.noConfusion (hb.symm.trans e)⟩

/-- An ordinary change keeps the invariant. -/
theorem Ordinary.inv {w : Bool} {s t : State} (h : Ordinary w s t) (hs : s.Inv) : t.Inv := by
  obtain ⟨hf, hm, hb⟩ := hs
  obtain ⟨hime, hrun, hbug, -⟩ := State.steady_eq_iff.mp h.steady
  refine ⟨h.lowNibble hf, h.wf hm, ?_⟩
  rwa [hime, hrun, hbug]

/-- The core's step keeps the invariant. -/
theorem cpuStep_inv {s t : State} (hs : s.Inv) (h : cpuStep s = .next t) : t.Inv := by
  cases hr : s.runState with
  | halted =>
    rw [cpuStep_halted hr] at h
    cases h
    exact hs
  | running =>
    rw [cpuStep_running hr] at h
    exact (ordinary_of_exec h).inv
      (State.Inv_controlEffect (State.Inv_fetchInstr hs) ((State.fetchInstr_runState s).trans hr) (State.fetchInstr_haltBug s) _)

/-- Settles O60: what the environment does before the step, the core's step, and each pass of the host's loop keep the
invariant. -/
theorem stepKeepsInvariant : Obligations.StepKeepsInvariant := by
  intro s t hs h
  obtain ⟨u, hu⟩ := cpuStep_total s.beginRound
  obtain rfl := Host.Outcome.next.inj (h.symm.trans (step_of_cpuStep hu))
  exact State.Inv_hostTicks _ (cpuStep_inv (State.Inv_beginRound hs) hu)

end Sys2Proof.Machine
end

section
/-! One call of the dispatcher, said in bits and bytes (R5, R26, R283, R285). -/

namespace Sys2Proof.Machine

/-! ## The pending set -/

/-- The pending set is the low five bits of the bytes that hold IE and IF (R52, R282). -/
theorem State.pending_eq (s : State) :
    s.interruptEnable &&& s.interruptFlag = (s.peek 0xFFFF &&& s.peek 0xFF0F &&& 0x1F).extractLsb' 0 5 := by
  show (s.peek 0xFFFF).extractLsb' 0 5 &&& (s.peek 0xFF0F).extractLsb' 0 5 = _
  apply BitVec.eq_of_getLsbD_eq
  intro i hi
  interval_cases i <;> simp

theorem State.pending_eq_zero_iff (s : State) :
    s.interruptEnable &&& s.interruptFlag = 0 ↔ s.peek 0xFFFF &&& s.peek 0xFF0F &&& 0x1F = 0 := by
  have h : ∀ x : Byte, (x &&& 0x1F).extractLsb' 0 5 = 0 ↔ x &&& 0x1F = 0 := by decide +kernel
  rw [State.pending_eq, h]

theorem State.getLsbD_pending (s : State) {i : Nat} (hi : i < 5) :
    (s.interruptEnable &&& s.interruptFlag).getLsbD i = (s.peek 0xFFFF &&& s.peek 0xFF0F &&& 0x1F).getLsbD i := by
  rw [State.pending_eq, BitVec.getLsbD_extractLsb', decide_eq_true hi, Bool.true_and, Nat.zero_add]

theorem State.interruptPending_iff (s : State) :
    s.interruptPending = true ↔ ¬ s.peek 0xFFFF &&& s.peek 0xFF0F &&& 0x1F = 0 :=
  bne_iff_ne.trans (not_congr s.pending_eq_zero_iff)

/-! ## The sources (R25, R26) -/

theorem Source.bit_lt (src : Source) : src.bit < 5 := by cases src <;> decide

theorem Source.mask_eq (src : Source) : src.mask = BitVec.ofNat 5 (2 ^ src.bit) := by cases src <;> rfl

theorem Source.toNat_vector (src : Source) : src.vector.toNat = 0x0040 + 8 * src.bit := by cases src <;> rfl

/-! ## The entry, the acknowledge, the dispatcher -/

/-- Waking and entering with a source pending: the core runs, at the source's vector, with IME off (R285). -/
theorem State.wake_enterInterrupt_eq {s : State} (h : s.interruptPending = true) (src : Source) :
    s.wake.enterInterrupt src =
      { s with
        ime := false
        runState := .running
        pc := src.vector
        sp := s.sp - 2
        bus := ((s.bus.ack src.mask).write (s.sp - 2) (lo8 s.pc)).write (s.sp - 2 + 1) (hi8 s.pc)
        trace := s.trace ++
          [.ack src.mask, .write (s.sp - 2) (lo8 s.pc), .write (s.sp - 2 + 1) (hi8 s.pc)] } := by
  rw [State.enterInterrupt_eq, State.wake_eq, if_pos h]

theorem State.sameOutside_wake_enterInterrupt {s : State} (h : s.interruptPending = true) (src : Source) :
    SameOutside [.pc, .sp, .ime, .runState, .bus] s (s.wake.enterInterrupt src) := by
  rw [State.wake_enterInterrupt_eq h]
  intro p hp
  cases p with
  | reg r => cases r <;> rfl
  | flags | haltBug | ticks => rfl
  | debug => exact ⟨rfl, rfl, rfl⟩
  | env => exact ⟨rfl, rfl⟩
  | pc | sp | ime | runState | bus => exact absurd hp (by decide)

theorem State.sameOutside_ackInterrupt (s : State) (mask : BitVec 5) : SameOutside [.bus] s (s.ackInterrupt mask) := by
  intro p hp
  cases p with
  | reg r => cases r <;> rfl
  | debug => exact ⟨rfl, rfl, rfl⟩
  | env => exact ⟨rfl, rfl⟩
  | bus => exact absurd hp (by decide)
  | _ => rfl

/-- Settles O50: the two outcomes of a dispatcher call, with the pending set read off the bytes of IE and IF. -/
theorem dispatcherServicesHighestPending : Obligations.DispatcherServicesHighestPending := by
  intro s m sp
  refine ⟨?_, fun mask => ?_⟩
  · split
    · next h =>
      rw [State.handleInterrupt_of_no_service (h.imp_right s.pending_eq_zero_iff.mpr), State.wake_eq]
      simp only [s.interruptPending_iff, ite_not]
      rfl
    · next h =>
      obtain ⟨hi, hm⟩ := not_or.mp h
      have hp : s.interruptPending = true := s.interruptPending_iff.mpr hm
      rcases State.handleInterrupt_cases s with ⟨-, h'⟩ | ⟨src, e, -, hs⟩
      · exact absurd (h'.imp_right s.pending_eq_zero_iff.mp) h
      obtain ⟨hbit, hlower⟩ := highestSource_spec hs
      refine ⟨src.bit, _, e, src.bit_lt, ?_, fun j hj => ?_, ?_⟩
      · rwa [s.getLsbD_pending src.bit_lt] at hbit
      · exact (s.getLsbD_pending (hj.trans src.bit_lt)).symm.trans (hlower j hj)
      refine ⟨?_, ?_, ?_, ?_, ?_, ?_, ?_, s.sameOutside_wake_enterInterrupt hp src⟩ <;> rw [s.wake_enterInterrupt_eq hp]
      · exact src.toNat_vector
      · rw [← src.mask_eq]
        exact .of_bus rfl rfl
      · exact .of_bus (s.bus.ack src.mask) (fun _ => rfl) rfl
  · obtain ⟨hflag, henable, hpeek⟩ := s.bus.ack_spec mask
    exact ⟨hflag, henable, hpeek, s.sameOutside_ackInterrupt mask⟩

end Sys2Proof.Machine
end

section
/-! The state after reset (R30), and the register file read back (R11 to R15). -/

namespace Sys2Proof

/-! ## Bytes of a word, on integers -/

theorem toNat_hi8 (v : Word) : (hi8 v).toNat = v.toNat / 256 := by
  have := v.isLt
  rw [hi8, BitVec.extractLsb'_toNat, Nat.shiftRight_eq_div_pow]
  omega

theorem toNat_lo8 (v : Word) : (lo8 v).toNat = v.toNat % 256 := by
  rw [lo8, BitVec.extractLsb'_toNat, Nat.shiftRight_zero]

namespace Machine

theorem toNat_and_F0 (b : Byte) : (b &&& 0xF0).toNat = b.toNat / 16 * 16 := by
  revert b
  decide +kernel

/-! ## Reset -/

/-- Settles O1: the reset state is made of the values given, and each preset's pairs are those of its halves. -/
theorem resetStateValues : Obligations.ResetStateValues := by
  refine ⟨fun r bus ticks => ?_, fun bus ticks => ?_, fun bus ticks => ?_⟩
  · exact ⟨rfl, rfl, rfl, rfl, rfl, rfl, rfl, rfl, rfl, rfl, rfl, rfl, rfl, rfl, rfl, rfl, rfl, rfl⟩
  · have h : joinBytes 0x00 0x00 = 0x0000 := by decide
    exact ⟨h, h, h, h, rfl, rfl⟩
  · have haf : joinBytes 0x01 0xB0 = 0x01B0 := by decide
    have hbc : joinBytes 0x00 0x13 = 0x0013 := by decide
    have hde : joinBytes 0x00 0xD8 = 0x00D8 := by decide
    have hhl : joinBytes 0x01 0x4D = 0x014D := by decide
    exact ⟨haf, hbc, hde, hhl, rfl, rfl⟩

/-- A reset with a flag byte of zero low nibble meets the invariant: the HALT bug is not armed. -/
theorem State.Inv_resetWith {r : Config.ResetRegs} {bus : BusState} (ticks : Config.TickTable) (hf : r.f &&& 0x0F = 0)
    (hm : Memory.wf bus.mem) : (State.resetWith r bus ticks).Inv :=
  ⟨hf, hm, fun hb => Bool.noConfusion hb⟩

/-- Settles O2: a reset arms no HALT bug, and takes its flag byte and the bus as given. -/
theorem invariantAtReset : Obligations.InvariantAtReset :=
  ⟨fun _ _ ticks hf hm => State.Inv_resetWith ticks hf hm, State.Inv_resetWith _ (by decide) State.wf_reset⟩

/-! ## Pairs and flags -/

theorem State.getReg_setPair_of_notMem (s : State) {p : StackPair} {r : Reg8} (h : .reg r ∉ stackPairParts p) (v : Word) :
    (s.setPair p v).getReg r = s.getReg r := by
  cases p <;> cases r <;> simp_all [stackPairParts, State.setPair, State.setHL, State.getReg]

theorem State.setPair_f_of_notMem (s : State) {p : StackPair} (h : .flags ∉ stackPairParts p) (v : Word) :
    (s.setPair p v).f = s.f := by
  cases p with
  | af => exact absurd h (by decide)
  | bc | de | hl => rfl

/-- A write of a pair changes its halves only (R11). -/
theorem State.sameOutside_setPair (s : State) (p : StackPair) (v : Word) :
    SameOutside (stackPairParts p) s (s.setPair p v) := by
  intro q hq
  cases q with
  | reg r => exact s.getReg_setPair_of_notMem hq v
  | flags => exact s.setPair_f_of_notMem hq v
  | _ => cases p <;> simp [SamePart]

/-- A flag write changes the flag byte only (R15). -/
theorem State.sameOutside_setFlags (s : State) (z n h c : Option Bool) : SameOutside [.flags] s (s.setFlags z n h c) := by
  intro q hq
  cases q with
  | reg r => exact s.getReg_setFlags z n h c r
  | debug => exact ⟨rfl, rfl, rfl⟩
  | env => exact ⟨rfl, rfl⟩
  | flags => exact absurd hq (by decide)
  | _ => rfl

theorem State.toNat_af_setPair_af (s : State) (v : Word) : (s.setPair .af v).af.toNat = v.toNat / 16 * 16 := by
  rw [State.af_setPair_af, toNat_joinBytes, toNat_and_F0, toNat_hi8, toNat_lo8]
  omega

/-- Settles O3: the register file's laws, with each pair read as `256 * high + low`. -/
theorem registerFileReadsBackWrites : Obligations.RegisterFileReadsBackWrites := by
  have hjoin : ∀ hi lo : Byte, (joinBytes hi lo).toNat = 256 * hi.toNat + lo.toNat := fun hi lo => by
    rw [toNat_joinBytes, Nat.mul_comm]
  refine ⟨State.getReg_setReg, fun s p v hp => s.getPair_setPair_same hp v, State.toNat_af_setPair_af,
    fun s => ⟨hjoin _ _, hjoin _ _, hjoin _ _, hjoin _ _⟩,
    fun s v => ⟨hjoin _ _, hjoin _ _, hjoin _ _, hjoin _ _, hjoin _ _, hjoin _ _⟩,
    State.sameOutside_setPair,
    fun s v => ⟨⟨toNat_hi8 v, ?_⟩, ⟨toNat_hi8 v, toNat_lo8 v⟩, ⟨toNat_hi8 v, toNat_lo8 v⟩, ⟨toNat_hi8 v, toNat_lo8 v⟩⟩,
    fun s z n h c => ⟨⟨?_, ?_, ?_, ?_, ?_⟩, s.sameOutside_setFlags z n h c⟩⟩
  · rw [← toNat_lo8]
    exact toNat_and_F0 _
  · exact s.flagZ_setFlags z n h c
  · exact s.flagN_setFlags z n h c
  · exact s.flagH_setFlags z n h c
  · exact s.flagC_setFlags z n h c
  · exact lowNibble_putBits z n h c s.f

end Machine

end Sys2Proof
end

section
/-! Word accesses as two byte accesses (R42, R43), and a store read back by the next fetch (R55, R58). -/

namespace Sys2Proof.Machine

/-! ## Frames of accesses -/

/-- The frame of an access: any change of the bus and the record. -/
theorem State.sameOutside_bus_trace (s : State) (bus : BusState) (trace : List Event) :
    SameOutside [.bus] s { s with bus := bus, trace := trace } := by
  intro p hp
  cases p with
  | reg r => cases r <;> rfl
  | debug => exact ⟨rfl, rfl, rfl⟩
  | env => exact ⟨rfl, rfl⟩
  | bus => exact absurd hp (by decide)
  | _ => rfl

theorem State.sameOutside_readWord (s : State) (addr : Word) : SameOutside [.bus] s (s.readWord addr).2 := by
  rw [State.readWord_eq]
  exact s.sameOutside_bus_trace _ _

theorem State.sameOutside_writeWord (s : State) (addr v : Word) : SameOutside [.bus] s (s.writeWord addr v) := by
  rw [State.writeWord_eq]
  exact s.sameOutside_bus_trace _ _

/-! ## Word accesses -/

/-- A word read is two byte reads, low byte first (R42). -/
theorem State.accesses_readWord (s : State) (addr : Word) :
    let lo := s.readByte addr
    Accesses s (s.readWord addr).2 [.read addr lo.1, .read (addr + 1) (lo.2.readByte (addr + 1)).1] := by
  intro lo
  rw [State.readWord_eq]
  exact .of_bus rfl rfl

/-- A word write is two byte writes, low byte first (R43). -/
theorem State.accesses_writeWord (s : State) (addr v : Word) :
    Accesses s (s.writeWord addr v) [.write addr (lo8 v), .write (addr + 1) (hi8 v)] := by
  rw [State.writeWord_eq]
  exact .of_bus rfl rfl

theorem State.storedWord_writeWord (s : State) (addr v : Word) : StoredWord s (s.writeWord addr v) addr v := by
  rw [State.writeWord_eq]
  exact .of_bus s.bus (fun _ => rfl) rfl

/-- Settles O7: both word accesses are two byte accesses in the order given, and the word is the pair of the two bytes. -/
theorem wordAccessIsLittleEndian : Obligations.WordAccessIsLittleEndian := by
  intro s addr v lo hi
  have hword : (s.readWord addr).1.toNat = 256 * hi.1.toNat + lo.1.toNat :=
    (toNat_joinBytes hi.1 lo.1).trans (by rw [Nat.mul_comm])
  exact ⟨hword, s.accesses_readWord addr, s.sameOutside_readWord addr, s.accesses_writeWord addr v, toNat_lo8 v, toNat_hi8 v,
    s.storedWord_writeWord addr v, s.sameOutside_writeWord addr v⟩

/-! ## Coherence -/

/-- A read of memory leaves the bus as it was (R55). -/
theorem State.readByte_bus_memory {s : State} {addr : Word} (h : s.onMemory addr = true) :
    (s.readByte addr).2.bus = s.bus := by
  rw [State.readByte_bus, BusState.read_memory (by simpa [State.onMemory] using h)]

theorem State.onMemory_writeByte (s : State) (addr x : Word) (v : Byte) :
    (s.writeByte addr v).onMemory x = s.onMemory x := by
  simp only [State.onMemory, State.writeByte_bus, BusState.isDevice_write]

/-- After a store to memory a read answers the byte stored (R55). -/
theorem State.answer_writeByte_same {s : State} {addr : Word} (h : s.onMemory addr = true) (v : Byte) :
    (s.writeByte addr v).answer addr = v := by
  have hm : (s.writeByte addr v).onMemory addr = true := (s.onMemory_writeByte addr addr v).trans h
  rw [State.answer_memory hm]
  exact Stored.of_bus (s.writeByte_bus addr v) h

/-- An instruction that stores `v` at HL = PC in memory leaves PC there, and the next opcode fetch reads `v` (R58). -/
theorem State.fetchOpcode_after_store {s : State} (hpc : s.hl = s.pc) (hm : s.onMemory s.pc = true) (v : Byte) (i : Instr) :
    ∃ t, (s.writeByte s.hl v).finish i = .next t ∧ t.pc = s.pc ∧ t.fetchOpcode.1 = v := by
  refine ⟨_, rfl, rfl, ?_⟩
  rw [State.fetchOpcode_eq, hpc]
  exact State.answer_writeByte_same hm v

/-- Settles O8: memory answers the byte last stored, and both instructions are a store at HL. -/
theorem storeIsSeenByNextFetch : Obligations.StoreIsSeenByNextFetch :=
  ⟨fun _ _ v hm => ⟨State.answer_memory hm, State.readByte_bus_memory hm, State.answer_writeByte_same hm v⟩,
    fun _ _ n hpc hm => ⟨State.fetchOpcode_after_store hpc hm _ _, State.fetchOpcode_after_store hpc hm n _⟩⟩

end Sys2Proof.Machine
end

section
/-! The decoder and the encoder held against each other (R73 to R84): what the decoder answers at each length, that it gives back
every encoding, and that every word it accepts is the encoding of what it answers. -/

namespace Sys2Proof

open Machine

/-! ## The decoder at each length (R73) -/

theorem decode_of_length_one {op : Byte} (h : opLength op = 1) (rest : List Byte) :
    decode (op :: rest) = .ok (decodeOp op 0 0, rest) := by
  simp only [decode, h]

theorem decode_of_length_two {op : Byte} (h : opLength op = 2) (n : Byte) (rest : List Byte) :
    decode (op :: n :: rest) = .ok (decodeOp op n 0, rest) := by
  simp only [decode, h]

theorem decode_of_length_three {op : Byte} (h : opLength op = 3) (n1 n2 : Byte) (rest : List Byte) :
    decode (op :: n1 :: n2 :: rest) = .ok (decodeOp op n1 n2, rest) := by
  simp only [decode, h]

/-- A word that decodes is its opcode and as many operand bytes as that says, then the bytes left over. -/
theorem decode_cases {bytes rest : List Byte} {i : Instr} (h : decode bytes = .ok (i, rest)) :
    ∃ op n1 n2, i = decodeOp op n1 n2 ∧ bytes = [op, n1, n2].take (opLength op) ++ rest := by
  cases bytes with
  | nil => cases h
  | cons op tail =>
    rcases opLength_cases op with hlen | hlen | hlen
    · rw [decode_of_length_one hlen] at h
      cases h
      exact ⟨op, 0, 0, rfl, by rw [hlen]; rfl⟩
    · match tail with
      | [] => simp [decode, hlen] at h
      | n1 :: tail =>
        rw [decode_of_length_two hlen] at h
        cases h
        exact ⟨op, n1, 0, rfl, by rw [hlen]; rfl⟩
    · match tail with
      | [] => simp [decode, hlen] at h
      | [n1] => simp [decode, hlen] at h
      | n1 :: n2 :: tail =>
        rw [decode_of_length_three hlen] at h
        cases h
        exact ⟨op, n1, n2, rfl, by rw [hlen]; rfl⟩

/-- Three bytes always decode (R70). -/
theorem decode_three_bytes (op n1 n2 : Byte) :
    decode [op, n1, n2] =
      .ok (decodeOp op (if opLength op = 1 then 0 else n1) (if opLength op = 3 then n2 else 0),
        [n1, n2].drop (opLength op - 1)) := by
  rcases opLength_cases op with h | h | h
  · rw [decode_of_length_one h, h]; rfl
  · rw [decode_of_length_two h, h]; rfl
  · rw [decode_of_length_three h, h]; rfl

/-- Of three bytes the decoder takes those that the opcode asks for (R73). -/
theorem decode_three_bytes_eq_ok {op n1 n2 : Byte} {i : Instr} {rest : List Byte}
    (h : decode [op, n1, n2] = .ok (i, rest)) :
    i = decodeOp op (if opLength op = 1 then 0 else n1) (if opLength op = 3 then n2 else 0) ∧
      opLength op + rest.length = 3 := by
  rw [decode_three_bytes] at h
  cases h
  exact ⟨rfl, by rcases opLength_cases op with e | e | e <;> rw [e] <;> rfl⟩

/-! ## Decoding an encoding -/

theorem decodesTo_of_length_one {op : Byte} {i : Instr} (hlen : opLength op = 1) (hi : decodeOp op 0 0 = i) :
    DecodesTo [op] i :=
  fun rest => hi ▸ decode_of_length_one hlen rest

theorem decodesTo_of_length_two {op n : Byte} {i : Instr} (hlen : opLength op = 2) (hi : decodeOp op n 0 = i) :
    DecodesTo [op, n] i :=
  fun rest => hi ▸ decode_of_length_two hlen n rest

theorem decodesTo_withWord {op : Byte} {f : Word → Instr} (hlen : opLength op = 3)
    (hf : ∀ n1 n2, decodeOp op n1 n2 = f (joinBytes n2 n1)) (nn : Word) : DecodesTo (withWord op nn) (f nn) := by
  intro rest
  have h := decode_of_length_three hlen (lo8 nn) (hi8 nn) rest
  rwa [hf, joinBytes_hi8_lo8] at h

/-- The byte after `0xCB` selects an entry of the secondary table (R271). -/
theorem decodesTo_secondary {cb : Byte} {i : Instr} (hi : decodeCB cb = i) : DecodesTo [0xCB, cb] i :=
  decodesTo_of_length_two rfl hi

/-- Every illegal byte is a one-byte entry of the primary table (R83). -/
theorem decodesTo_illegal {op : Byte} (h : WellFormed (.illegal op) = true) : DecodesTo [op] (.illegal op) := by
  have hset : ∀ op ∈ Config.illegalSet, opLength op = 1 ∧ decodeOp op 0 0 = .illegal op := by decide
  obtain ⟨hlen, hi⟩ := hset op (List.contains_iff_mem.mp h)
  exact decodesTo_of_length_one hlen hi

theorem decodesTo_rst (t : BitVec 3) : DecodesTo (encode (.rst t)) (.rst t) := by
  have ht : ∀ t : BitVec 3, opLength (0xC7 + 8 * bitIndex t) = 1 ∧ decodeOp (0xC7 + 8 * bitIndex t) 0 0 = .rst t := by decide
  exact decodesTo_of_length_one (ht t).1 (ht t).2

theorem decodeCB_onR (b : BitVec 3) (r : Reg8) :
    decodeCB (0x40 + 8 * bitIndex b + regIndex r) = .bitR b r ∧ decodeCB (0x80 + 8 * bitIndex b + regIndex r) = .resR b r ∧
      decodeCB (0xC0 + 8 * bitIndex b + regIndex r) = .setR b r := by
  revert b
  cases r <;> decide

theorem decodeCB_atHL (b : BitVec 3) :
    decodeCB (0x46 + 8 * bitIndex b) = .bitAtHL b ∧ decodeCB (0x86 + 8 * bitIndex b) = .resAtHL b ∧
      decodeCB (0xC6 + 8 * bitIndex b) = .setAtHL b := by
  revert b
  decide

/-- The bytes of a well-formed instruction decode to it, whatever follows them. -/
theorem decodesTo_encode {i : Instr} (h : WellFormed i = true) : DecodesTo (encode i) i := by
  cases i with
  | prefixCB => exact Bool.noConfusion h
  | illegal => exact decodesTo_illegal h
  | rst t => exact decodesTo_rst t
  | popPair p =>
    cases p with
    | af => exact Bool.noConfusion h
    | bc | de | hl => exact decodesTo_of_length_one rfl rfl
  | incPair p | decPair p | addHLPair p | pushPair p => cases p <;> exact decodesTo_of_length_one rfl rfl
  | retCond cc => cases cc <;> exact decodesTo_of_length_one rfl rfl
  | ldRR dst src => cases dst <;> cases src <;> exact decodesTo_of_length_one rfl rfl
  | incR r | decR r | ldRAtHL r | ldAtHLR r
  | addR r | adcR r | subR r | sbcR r | andR r | xorR r | orR r | cpR r =>
    cases r <;> exact decodesTo_of_length_one rfl rfl
  | ldRN r n => cases r <;> exact decodesTo_of_length_two rfl rfl
  | jrCond cc e => cases cc <;> exact decodesTo_of_length_two rfl rfl
  | ldAtHLN | jrE | addN | adcN | subN | sbcN | andN | xorN | orN | cpN | ldhAtNA | ldhAAtN | addSPE | ldHLSPE =>
    exact decodesTo_of_length_two rfl rfl
  | ldPairNN p nn => cases p <;> exact decodesTo_withWord rfl (fun _ _ => rfl) nn
  | jpCond cc nn | callCond cc nn => cases cc <;> exact decodesTo_withWord rfl (fun _ _ => rfl) nn
  | ldAtNNSP nn | jpNN nn | callNN nn | ldAtNNA nn | ldAAtNN nn => exact decodesTo_withWord rfl (fun _ _ => rfl) nn
  | rlcR r | rrcR r | rlR r | rrR r | slaR r | sraR r | swapR r | srlR r => cases r <;> exact decodesTo_secondary rfl
  | rlcAtHL | rrcAtHL | rlAtHL | rrAtHL | slaAtHL | sraAtHL | swapAtHL | srlAtHL => exact decodesTo_secondary rfl
  | bitR b r => exact decodesTo_secondary (decodeCB_onR b r).1
  | resR b r => exact decodesTo_secondary (decodeCB_onR b r).2.1
  | setR b r => exact decodesTo_secondary (decodeCB_onR b r).2.2
  | bitAtHL b => exact decodesTo_secondary (decodeCB_atHL b).1
  | resAtHL b => exact decodesTo_secondary (decodeCB_atHL b).2.1
  | setAtHL b => exact decodesTo_secondary (decodeCB_atHL b).2.2
  | _ => exact decodesTo_of_length_one rfl rfl

/-- Settles O13: each constructor's encoding begins with an opcode of the right length, and the maps invert the operand tables. -/
theorem decodeOfEncode : Obligations.DecodeOfEncode :=
  fun _ rest h => decodesTo_encode h rest

/-- Settles O15: each word is the encoding of the instruction listed. -/
theorem wordsDecodeAsListed : Obligations.WordsDecodeAsListed := by
  have h (i : Instr) (hwf : WellFormed i = true) : decode (encode i ++ []) = .ok (i, []) := decodesTo_encode hwf []
  exact ⟨h (.ldRR .b .b) rfl, h .halt rfl, h (.illegal 0xD3) rfl, h (.swapR .a) rfl, h (.bitR 7 .h) rfl, h (.xorR .a) rfl,
    h (.ldPairNN .hl 0x3A5B) rfl, h (.jrCond .c 0x10) rfl, h (.callCond .nz 0x1234) rfl, h (.rst 5) rfl, h (.ldhAAtN 0x34) rfl⟩

/-! ## Encoding what was decoded -/

/-- `i` is well-formed, and its bytes are `op` and as many of the two bytes after it as `op` says (R73). -/
def Spells (op n1 n2 : Byte) (i : Instr) : Prop := WellFormed i = true ∧ encode i = [op, n1, n2].take (opLength op)

theorem withWord_joinBytes (op n1 n2 : Byte) : withWord op (joinBytes n2 n1) = [op, n1, n2] := by
  rw [withWord, lo8_joinBytes, hi8_joinBytes]

theorem encode_decodeCB (cb : Byte) : encode (decodeCB cb) = [0xCB, cb] := by
  revert cb
  decide +kernel

/-- The opcode byte with the given fields (R74). -/
def opcodeOf (x : BitVec 2) (y z : BitVec 3) : Byte := x ++ (y ++ z)

theorem opcodeOf_fields (op : Byte) : opcodeOf (fieldX op) (fieldY op) (fieldZ op) = op := by
  revert op
  decide +kernel

/-- The case split on a row (`z`) or a column (`y`) of an opcode map. -/
theorem field_cases {P : BitVec 3 → Prop} (c0 : P 0) (c1 : P 1) (c2 : P 2) (c3 : P 3) (c4 : P 4) (c5 : P 5) (c6 : P 6)
    (c7 : P 7) (y : BitVec 3) : P y := by
  have hy : ∀ y : BitVec 3, y = 0 ∨ y = 1 ∨ y = 2 ∨ y = 3 ∨ y = 4 ∨ y = 5 ∨ y = 6 ∨ y = 7 := by decide
  rcases hy y with rfl | rfl | rfl | rfl | rfl | rfl | rfl | rfl <;> assumption

/-- The x = 0 quadrant: the operand is a word in `LD (nn),SP` and `LD rr,nn`. -/
theorem spells_quadrant0 (y z : BitVec 3) (n1 n2 : Byte) : Spells (opcodeOf 0 y z) n1 n2 (decodeOp (opcodeOf 0 y z) n1 n2) := by
  cases z using field_cases with
  | c0 =>
    cases y using field_cases with
    | c1 => exact ⟨rfl, withWord_joinBytes _ n1 n2⟩
    | _ => exact ⟨rfl, rfl⟩
  | c1 =>
    cases y using field_cases with
    | c0 | c2 | c4 | c6 => exact ⟨rfl, withWord_joinBytes _ n1 n2⟩
    | _ => exact ⟨rfl, rfl⟩
  | _ => cases y using field_cases <;> exact ⟨rfl, rfl⟩

/-- The x = 1 and x = 2 quadrants: no instruction has an operand byte. -/
theorem spells_quadrant1_2 {x : BitVec 2} (hx : x = 1 ∨ x = 2) (y z : BitVec 3) (n1 n2 : Byte) :
    Spells (opcodeOf x y z) n1 n2 (decodeOp (opcodeOf x y z) n1 n2) := by
  rcases hx with rfl | rfl <;> cases y using field_cases <;> cases z using field_cases <;> exact ⟨rfl, rfl⟩

/-- The x = 3 quadrant: the operand is a word in the jumps and calls and in `LD (nn),A` and `LD A,(nn)`, and a secondary entry
in `PREFIX CB`. -/
theorem spells_quadrant3 (y z : BitVec 3) (n1 n2 : Byte) : Spells (opcodeOf 3 y z) n1 n2 (decodeOp (opcodeOf 3 y z) n1 n2) := by
  cases z using field_cases with
  | c2 =>
    cases y using field_cases with
    | c4 | c6 => exact ⟨rfl, rfl⟩
    | _ => exact ⟨rfl, withWord_joinBytes _ n1 n2⟩
  | c3 =>
    cases y using field_cases with
    | c0 => exact ⟨rfl, withWord_joinBytes _ n1 n2⟩
    | c1 => exact ⟨WellFormed_decodeCB n1, encode_decodeCB n1⟩
    | _ => exact ⟨rfl, rfl⟩
  | c4 =>
    cases y using field_cases with
    | c0 | c1 | c2 | c3 => exact ⟨rfl, withWord_joinBytes _ n1 n2⟩
    | _ => exact ⟨rfl, rfl⟩
  | c5 =>
    cases y using field_cases with
    | c1 => exact ⟨rfl, withWord_joinBytes _ n1 n2⟩
    | _ => exact ⟨rfl, rfl⟩
  | _ => cases y using field_cases <;> exact ⟨rfl, rfl⟩

/-- Every entry of the primary map is well-formed and spelt by its opcode and the bytes after it. -/
theorem spells_decodeOp (op n1 n2 : Byte) : Spells op n1 n2 (decodeOp op n1 n2) := by
  have hx : ∀ x : BitVec 2, x = 0 ∨ x = 1 ∨ x = 2 ∨ x = 3 := by decide
  rw [← opcodeOf_fields op]
  generalize fieldY op = y, fieldZ op = z
  rcases hx (fieldX op) with h | h | h | h <;> rw [h]
  · exact spells_quadrant0 y z n1 n2
  · exact spells_quadrant1_2 (.inl rfl) y z n1 n2
  · exact spells_quadrant1_2 (.inr rfl) y z n1 n2
  · exact spells_quadrant3 y z n1 n2

/-- Settles O14: a word that decodes is an opcode with its operand bytes and a rest, and every entry of the maps is spelt by
its opcode and those bytes. -/
theorem encodeOfDecode : Obligations.EncodeOfDecode := by
  refine ⟨fun bytes rest i h => ?_, fun op n1 n2 => ⟨_, _, decode_three_bytes op n1 n2⟩⟩
  obtain ⟨op, n1, n2, rfl, rfl⟩ := decode_cases h
  obtain ⟨hwf, henc⟩ := spells_decodeOp op n1 n2
  exact ⟨hwf, by rw [henc]⟩

end Sys2Proof
end

section
/-! The fetch against the decoder (R70, R72, R73, R300): what a running core executes is what the bytes answered at the fetched
addresses decode to, with the HALT bug and without; and the idle step of a halted core. -/

namespace Sys2Proof.Machine

/-! ## Frames of a step before execution -/

/-- The frame of a fetch: PC, the bus and the record, and the HALT bug and the pause flag where they are listed or unchanged. -/
theorem State.sameOutside_fetched (s : State) {ps : List Part} {bug paused : Bool} (pc : Word) (bus : BusState)
    (trace : List Event) (hpc : .pc ∈ ps) (hbus : .bus ∈ ps) (hbug : bug = s.haltBug ∨ .haltBug ∈ ps)
    (hpaused : paused = s.paused ∨ .debug ∈ ps) :
    SameOutside ps s { s with pc := pc, haltBug := bug, paused := paused, bus := bus, trace := trace } := by
  intro p hp
  cases p with
  | reg r => cases r <;> rfl
  | pc => exact absurd hpc hp
  | bus => exact absurd hbus hp
  | haltBug => exact hbug.resolve_right hp
  | debug => exact ⟨rfl, hpaused.resolve_right hp, rfl⟩
  | env => exact ⟨rfl, rfl⟩
  | _ => rfl

theorem State.sameOutside_setCycles (s : State) (n : Byte) : SameOutside [] s (s.setCycles n) := by
  intro p _
  cases p with
  | reg r => cases r <;> rfl
  | debug => exact ⟨rfl, rfl, rfl⟩
  | env => exact ⟨rfl, rfl⟩
  | _ => rfl

/-! ## The fetch of one byte -/

theorem toNat_add_one (addr : Word) : (addr + 1).toNat = (addr.toNat + 1) % 65536 := BitVec.toNat_add addr 1

/-- Settles O10: both fetches are one read at PC, and the opcode fetch advances PC where no HALT bug is armed. -/
theorem opcodeFetchHonoursHaltBug : Obligations.OpcodeFetchHonoursHaltBug := by
  intro s
  have hpc : (if s.haltBug then s.pc else s.pc + 1).toNat = if s.haltBug then s.pc.toNat else (s.pc.toNat + 1) % 65536 := by
    rw [apply_ite BitVec.toNat, toNat_add_one]
  rw [State.fetchOpcode_eq, State.fetch8_eq]
  exact ⟨rfl, rfl, hpc, .of_bus rfl rfl,
    s.sameOutside_fetched _ _ _ (by decide) (by decide) (.inr (by decide)) (.inl rfl),
    rfl, toNat_add_one s.pc, .of_bus rfl rfl,
    s.sameOutside_fetched _ _ _ (by decide) (by decide) (.inl rfl) (.inl rfl)⟩

/-- Settles O12: the idle step only records its ticks. -/
theorem haltedStepIsIdle : Obligations.HaltedStepIsIdle :=
  fun s h => ⟨_, cpuStep_halted h, rfl, rfl, s.sameOutside_setCycles _⟩

/-! ## The fetch of an instruction -/

/-- Where the second and third byte of an instruction are read from: the HALT bug holds PC back at the opcode fetch (R72). -/
def State.operandAddr (s : State) : Word := if s.haltBug then s.pc else s.pc + 1

/-- The addresses a fetch reads from, as far as the instruction goes. -/
def State.fetchAddrs (s : State) : List Word := [s.pc, s.operandAddr, s.operandAddr + 1]

/-- The fetch of a running core is the decoding of the bytes answered at the fetched addresses (R70, R72, R73). -/
theorem State.fetchInstr_of_decode {s : State} {i : Instr} {rest : List Byte}
    (h : decode (s.readBytes s.fetchAddrs).1 = .ok (i, rest)) :
    s.fetchInstr = (i,
      { s with
        pc := s.operandAddr + BitVec.ofNat 16 (2 - rest.length)
        haltBug := false
        paused := s.paused || s.breakpoint == some s.pc || (s.softBreak && s.answer s.pc == 0x40)
        bus := (s.readBytes (s.fetchAddrs.take (3 - rest.length))).2.bus
        trace := (s.readBytes (s.fetchAddrs.take (3 - rest.length))).2.trace }) := by
  obtain ⟨rfl, hlen⟩ := decode_three_bytes_eq_ok (op := s.answer s.pc) h
  have h3 : 3 - rest.length = opLength (s.answer s.pc) := by omega
  have h2 : 2 - rest.length = opLength (s.answer s.pc) - 1 := by omega
  rw [State.fetchInstr_eq, h3, h2]
  dsimp only
  rw [State.readBytes_eq]
  rfl

/-- Settles O9: with no HALT bug armed the operands follow the opcode, and the round is the step on the state fetched. -/
theorem stepRunsDecodedInstruction : Obligations.StepRunsDecodedInstruction := by
  intro s i rest c addrs hrun hbug h
  have haddr : c.operandAddr = c.pc + 1 := by rw [State.operandAddr, hbug]; rfl
  have haddrs : c.fetchAddrs = addrs := by rw [State.fetchAddrs, haddr, BitVec.add_assoc]; rfl
  obtain ⟨-, hlen⟩ := decode_three_bytes_eq_ok (op := c.answer c.pc) h
  have hpc : c.operandAddr + BitVec.ofNat 16 (2 - rest.length) = c.pc + BitVec.ofNat 16 (3 - rest.length) := by
    have h1 : 3 - rest.length = 1 + (2 - rest.length) := by have := opLength_cases (c.answer c.pc); omega
    rw [haddr, h1, BitVec.ofNat_add, BitVec.add_assoc]; rfl
  rw [← haddrs] at h ⊢
  rw [step, cpuStep_running hrun, State.fetchInstr_of_decode h, hpc, State.readBytes_eq, hbug]

/-- Reads of memory answer the bytes held. -/
theorem State.readBytes_memory (addrs : List Word) : ∀ {s : State}, (∀ addr ∈ addrs, s.onMemory addr = true) →
    (s.readBytes addrs).1 = addrs.map s.peek := by
  induction addrs with
  | nil => exact fun _ => rfl
  | cons addr addrs ih =>
    intro s h
    have hbus : (s.readByte addr).2.bus = s.bus := State.readByte_bus_memory (h addr List.mem_cons_self)
    have hrest : ((s.readByte addr).2.readBytes addrs).1 = addrs.map (s.readByte addr).2.peek :=
      ih fun x hx => by rw [State.onMemory, hbus]; exact h x (List.mem_cons_of_mem addr hx)
    have hpeek : (s.readByte addr).2.peek = s.peek := by funext x; rw [State.peek, hbus]; rfl
    calc (s.readBytes (addr :: addrs)).1
        = s.answer addr :: ((s.readByte addr).2.readBytes addrs).1 := rfl
      _ = (addr :: addrs).map s.peek := by
        rw [hrest, hpeek, State.answer_memory (h addr List.mem_cons_self), List.map_cons]

/-- Settles O11: with the HALT bug armed the opcode fetch leaves PC where it is, so the operands are read from there on. -/
theorem haltBugDoublesByte : Obligations.HaltBugDoublesByte := by
  intro s hrun hbug addrs
  have haddr : s.operandAddr = s.pc := by rw [State.operandAddr, hbug]; rfl
  have haddrs : s.fetchAddrs = addrs := by rw [State.fetchAddrs, haddr]
  refine ⟨?_, fun h0 h1 => State.readBytes_memory addrs
    (List.forall_mem_cons.mpr ⟨h0, List.forall_mem_cons.mpr ⟨h0, List.forall_mem_singleton.mpr h1⟩⟩)⟩
  obtain ⟨i, rest, h⟩ : ∃ i rest, decode (s.readBytes s.fetchAddrs).1 = .ok (i, rest) := encodeOfDecode.2 _ _ _
  rw [← haddrs]
  refine ⟨i, rest, _, h, (State.prepare_running hrun).trans (by rw [State.fetchInstr_of_decode h]), ?_⟩
  rw [haddr]
  exact ⟨rfl, rfl, rfl, rfl, s.sameOutside_fetched _ _ _ (by decide) (by decide) (.inr (by decide)) (.inr (by decide))⟩

end Sys2Proof.Machine
end

section
/-! What an instruction does, from its meaning (R6, R336, R337): one rule for each state operation, saying which accesses it
makes and which parts it changes, and from a sequence of them the claim `Does` about an instruction. -/

namespace Sys2Proof.Machine

/-! ## The effect of a state operation -/

theorem SameOutside.mono {ps qs : List Part} {s t : State} (h : SameOutside ps s t) (hsub : ps ⊆ qs) : SameOutside qs s t :=
  fun p hp => h p fun hm => hp (hsub hm)

theorem SamePart.trans {s t u : State} {p : Part} (h : SamePart s t p) (h' : SamePart t u p) : SamePart s u p := by
  cases p with
  | debug =>
    obtain ⟨hb, hp, hs⟩ := h
    obtain ⟨hb', hp', hs'⟩ := h'
    exact ⟨hb'.trans hb, hp'.trans hp, hs'.trans hs⟩
  | env =>
    obtain ⟨hi, hc⟩ := h
    obtain ⟨hi', hc'⟩ := h'
    exact ⟨hi'.trans hi, hc'.trans hc⟩
  | _ => exact Eq.trans h' h

theorem BusState.after_append (evs evs' : List Event) : ∀ bus : BusState, bus.after (evs ++ evs') = (bus.after evs).after evs' := by
  induction evs with
  | nil => exact fun _ => rfl
  | cons ev evs ih => cases ev <;> exact fun bus => ih _

/-- `t` follows `s` by exactly the accesses `events` and a change of the parts `changes`; the tick table stays. -/
structure Effect (events : List Event) (changes : List Part) (s t : State) : Prop where
  trace : t.trace = s.trace ++ events
  bus : t.bus = s.bus.after events
  ticks : t.ticks = s.ticks
  frame : SameOutside (.bus :: changes) s t

namespace Effect

variable {s t u : State} {events events' : List Event} {changes changes' : List Part}

theorem trans (h : Effect events changes s t) (h' : Effect events' changes' t u) :
    Effect (events ++ events') (changes ++ changes') s u where
  trace := by rw [h'.trace, h.trace, List.append_assoc]
  bus := by rw [h'.bus, h.bus, BusState.after_append]
  ticks := h'.ticks.trans h.ticks
  frame p hp := by
    simp only [List.mem_cons, List.mem_append, not_or] at hp
    obtain ⟨hbus, hc, hc'⟩ := hp
    exact (h.frame p (by simp [hbus, hc])).trans (h'.frame p (by simp [hbus, hc']))

/-- An operation that makes no access. -/
theorem silent (htrace : t.trace = s.trace) (hbus : t.bus = s.bus) (hticks : t.ticks = s.ticks)
    (hframe : SameOutside changes s t) : Effect [] changes s t where
  trace := by rw [htrace, List.append_nil]
  bus := hbus
  ticks := hticks
  frame := hframe.mono (List.subset_cons_self _ _)

theorem setReg (s : State) (r : Reg8) (v : Byte) : Effect [] [.reg r] s (s.setReg r v) := by
  refine silent (by simp) (by simp) (by simp) fun p hp => ?_
  cases p with
  | reg q =>
    have hq : q ≠ r := fun h => hp (by simp [h])
    exact (s.getReg_setReg r q v).trans (if_neg hq)
  | _ => simp [SamePart]

theorem setFlags (s : State) (z n h c : Option Bool) : Effect [] [.flags] s (s.setFlags z n h c) :=
  silent rfl rfl rfl (s.sameOutside_setFlags z n h c)

theorem setAlu (s : State) (o : AluOut) : Effect [] [.reg .a, .flags] s (s.setAlu o) :=
  (setReg s .a o.res).trans (setFlags _ _ _ _ _)

theorem readByte (s : State) (addr : Word) : Effect [.read addr (s.answer addr)] [] s (s.readByte addr).2 where
  trace := rfl
  bus := rfl
  ticks := rfl
  frame := s.sameOutside_bus_trace _ _

theorem writeByte (s : State) (addr : Word) (v : Byte) : Effect [.write addr v] [] s (s.writeByte addr v) where
  trace := rfl
  bus := rfl
  ticks := rfl
  frame := s.sameOutside_bus_trace _ _

end Effect

/-! ## From the meaning of an instruction to what it does -/

/-- The instruction `i` has these bytes and these default ticks, and on every state it is the update `eff` and then the end of an
instruction. For most instructions each part holds by the model's definitions, which is the default. -/
structure Means (bytes : List Byte) (i : Instr) (ticks : Byte) (eff : State → State) : Prop where
  wellFormed : WellFormed i = true := by rfl
  encode_eq : encode i = bytes := by rfl
  taken_eq : (defaultTicks i).taken = ticks := by rfl
  exec_eq : ∀ s, exec i s = (eff s).finish i := by exact fun _ => rfl

theorem Means.does {bytes : List Byte} {i : Instr} {ticks : Byte} {eff : State → State} (h : Means bytes i ticks eff)
    {s : State} {events : List Event} {changes : List Part} {P : State → Prop} (heff : Effect events changes s (eff s))
    (hP : ∀ n, P ((eff s).setCycles n)) : Does s bytes i ticks events changes P := by
  have hticks : (eff s).ticksAt bytes true ticks = s.ticksAt bytes true ticks := State.ticksAt_congr heff.ticks _ _ _
  obtain ⟨hwf, rfl, rfl, hexec⟩ := h
  exact ⟨decodesTo_encode hwf, _, hexec s, hticks, .of_bus heff.trace heff.bus, hP _, fun p hp =>
    (heff.frame p hp).trans ((eff s).sameOutside_setCycles _ p List.not_mem_nil)⟩

/-- The three operand forms (R100) of an operation that makes no access of its own: the update `eff v` with `v` the register, the
byte read at HL, or the immediate. The result is stated of the update of `s` with any bus and record, of which the form at HL
leaves those of the read. -/
theorem forEachOperand_of_means {s : State} {onR : Reg8 → Instr} {atHL : Instr} {onN : Byte → Instr} {block imm : Byte}
    {eff : Byte → State → State} {changes : List Part} {post : Byte → State → Prop}
    (hR : ∀ r, Means [block + regIndex r] (onR r) 4 fun s => eff (s.getReg r) s)
    (hHL : Means [block + 6] atHL 8 fun s => eff (s.answer s.hl) (s.readByte s.hl).2)
    (hN : ∀ n, Means [imm, n] (onN n) 8 (eff n))
    (heff : ∀ v s, Effect [] changes s (eff v s))
    (hpost : ∀ v bus trace n, post v ((eff v { s with bus := bus, trace := trace }).setCycles n)) :
    ForEachOperand s onR atHL onN block imm fun bytes i v events ticks => Does s bytes i ticks events changes (post v) :=
  ⟨fun r => (hR r).does (heff _ s) (hpost _ _ _),
    hHL.does ((Effect.readByte s s.hl).trans (heff _ _)) (hpost _ _ _),
    fun n => (hN n).does (heff n s) (hpost n _ _)⟩

/-! ## Flags and stores -/

/-- A flag write on a state with the flag byte of `s`. -/
theorem FlagsBecome.setFlags {s t : State} (hf : t.f = s.f) (z n h c : Option Bool) :
    FlagsBecome s (t.setFlags z n h c) (z.getD s.flagZ) (n.getD s.flagN) (h.getD s.flagH) (c.getD s.flagC) := by
  rw [State.setFlags, hf]
  exact ⟨s.flagZ_setFlags z n h c, s.flagN_setFlags z n h c, s.flagH_setFlags z n h c, s.flagC_setFlags z n h c,
    lowNibble_putBits z n h c s.f⟩

/-- A byte stored after a read: the read does not change which addresses are memory. -/
theorem Stored.of_read_write {s t : State} {addr x : Word} {v : Byte} (h : t.bus = (s.bus.read x).2.write addr v) :
    Stored s t addr v := by
  intro hm
  have hm' : (s.readByte x).2.onMemory addr = true := by simpa [State.onMemory] using hm
  exact Stored.of_bus h hm'

end Sys2Proof.Machine
end

section
/-! 8-bit arithmetic and logic (40_alu8.md). The flag computations on numbers, and from them each family of instructions. -/

namespace Sys2Proof.Machine

theorem beq_zero_eq_decide_toNat (v : Byte) : (v == 0) = decide (v.toNat = 0) :=
  decide_eq_decide.mpr BitVec.toNat_inj.symm

/-! ## ADD, ADC, SUB, SBC -/

/-- A and the flags after `ADD` or `ADC` (R101). -/
theorem State.setAlu_add8 (s : State) (v : Byte) (cin : Bool) :
    (s.setAlu (add8 s.a v cin)).a.toNat = (s.a.toNat + v.toNat + cin.toNat) % 256 ∧
    FlagsBecome s (s.setAlu (add8 s.a v cin)) (decide ((s.a.toNat + v.toNat + cin.toNat) % 256 = 0)) false
      (decide (s.a.toNat % 16 + v.toNat % 16 + cin.toNat > 15)) (decide (s.a.toNat + v.toNat + cin.toNat > 255)) := by
  obtain ⟨hres, hz, hn, hh, hc⟩ := add8_spec s.a v cin
  refine ⟨hres, ?_⟩
  rw [← hn, ← hh, ← hc, ← hres, ← beq_zero_eq_decide_toNat, ← hz]
  exact FlagsBecome.setFlags rfl _ _ _ _

/-- Settles O16: both add the operand and a carry-in, `ADD` with none. -/
theorem addAdcResult : Obligations.AddAdcResult := by
  intro s
  exact ⟨forEachOperand_of_means (eff := fun v s => s.setAlu (add8 s.a v false)) (fun _ => {}) {} (fun _ => {})
      (fun _ _ => .setAlu _ _) fun v _ _ _ => s.setAlu_add8 v false,
    forEachOperand_of_means (eff := fun v s => s.setAlu (add8 s.a v s.flagC)) (fun _ => {}) {} (fun _ => {})
      (fun _ _ => .setAlu _ _) fun v _ _ _ => s.setAlu_add8 v s.flagC⟩

/-- A and the flags after `SUB` or `SBC` (R102). -/
theorem State.setAlu_sub8 (s : State) (v : Byte) (cin : Bool) :
    ((s.setAlu (sub8 s.a v cin)).a.toNat : Int) = ((s.a.toNat : Int) - v.toNat - cin.toNat) % 256 ∧
    FlagsBecome s (s.setAlu (sub8 s.a v cin)) (decide (((s.a.toNat : Int) - v.toNat - cin.toNat) % 256 = 0)) true
      (decide (s.a.toNat % 16 < v.toNat % 16 + cin.toNat)) (decide (s.a.toNat < v.toNat + cin.toNat)) := by
  obtain ⟨hres, hz, hn, hh, hc⟩ := sub8_spec s.a v cin
  refine ⟨hres, ?_⟩
  rw [← hn, ← hh, ← hc, ← hres, decide_eq_decide.mpr Int.natCast_eq_zero, ← beq_zero_eq_decide_toNat, ← hz]
  exact FlagsBecome.setFlags rfl _ _ _ _

/-- Settles O17: both subtract the operand and a borrow-in, `SUB` with none. -/
theorem subSbcResult : Obligations.SubSbcResult := by
  intro s
  exact ⟨forEachOperand_of_means (eff := fun v s => s.setAlu (sub8 s.a v false)) (fun _ => {}) {} (fun _ => {})
      (fun _ _ => .setAlu _ _) fun v _ _ _ => s.setAlu_sub8 v false,
    forEachOperand_of_means (eff := fun v s => s.setAlu (sub8 s.a v s.flagC)) (fun _ => {}) {} (fun _ => {})
      (fun _ _ => .setAlu _ _) fun v _ _ _ => s.setAlu_sub8 v s.flagC⟩

/-! ## CP -/

/-- A difference without borrow-in is zero exactly when the two bytes are equal. -/
theorem sub8_z (a v : Byte) : (sub8 a v false).z = decide (a = v) := by
  obtain ⟨hres, hz, -⟩ := sub8_spec a v false
  rw [hz, beq_zero_eq_decide_toNat, decide_eq_decide, ← BitVec.toNat_inj]
  have ha := a.isLt
  have hv := v.isLt
  rw [Bool.toNat_false] at hres
  omega

/-- Settles O18: the flags are those of `SUB`, and nothing else is written. -/
theorem compareSetsFlagsOnly : Obligations.CompareSetsFlagsOnly := by
  intro s
  refine forEachOperand_of_means (eff := fun v s => s.setAluFlags (sub8 s.a v false)) (fun _ => {}) {} (fun _ => {})
    (fun _ _ => .setFlags _ _ _ _ _) fun v _ _ _ => ?_
  obtain ⟨-, -, hn, hh, hc⟩ := sub8_spec s.a v false
  rw [← sub8_z, ← hn]
  exact hh ▸ hc ▸ FlagsBecome.setFlags rfl _ _ _ _

/-! ## AND, XOR, OR -/

/-- A and the flags after a bitwise operation `op`, which combines each pair of bits by `f` (R103). -/
theorem State.setAlu_logic8 {op : Byte → Byte → Byte} {f : Bool → Bool → Bool}
    (hop : ∀ a v j, (op a v).getLsbD j = f (a.getLsbD j) (v.getLsbD j)) (s : State) (v : Byte) (h : Bool) :
    (∀ j < 8, (s.setAlu (logic8 (op s.a v) h)).a.getLsbD j = f (s.a.getLsbD j) (v.getLsbD j)) ∧
    FlagsBecome s (s.setAlu (logic8 (op s.a v) h)) (decide ((s.setAlu (logic8 (op s.a v) h)).a = 0)) false h false :=
  ⟨fun j _ => hop s.a v j, FlagsBecome.setFlags rfl _ _ _ _⟩

/-- Settles O19: the three operations act bit by bit. -/
theorem logicResult : Obligations.LogicResult := by
  intro s
  exact ⟨forEachOperand_of_means (eff := fun v s => s.setAlu (logic8 (s.a &&& v) true)) (fun _ => {}) {} (fun _ => {})
      (fun _ _ => .setAlu _ _) fun v _ _ _ => s.setAlu_logic8 (fun _ _ _ => BitVec.getLsbD_and) v true,
    forEachOperand_of_means (eff := fun v s => s.setAlu (logic8 (s.a ^^^ v) false)) (fun _ => {}) {} (fun _ => {})
      (fun _ _ => .setAlu _ _) fun v _ _ _ => s.setAlu_logic8 (fun _ _ _ => BitVec.getLsbD_xor) v false,
    forEachOperand_of_means (eff := fun v s => s.setAlu (logic8 (s.a ||| v) false)) (fun _ => {}) {} (fun _ => {})
      (fun _ _ => .setAlu _ _) fun v _ _ _ => s.setAlu_logic8 (fun _ _ _ => BitVec.getLsbD_or) v false⟩

/-! ## INC and DEC -/

/-- What `inc8` computes (R104), on numbers. -/
theorem inc8_spec (v : Byte) :
    inc8 v = (BitVec.ofNat 8 (v.toNat + 1), decide (v.toNat = 255), decide (v.toNat % 16 = 15)) := by
  have hv := v.isLt
  have hres : v + 1 = BitVec.ofNat 8 (v.toNat + 1) := BitVec.eq_of_toNat_eq (by simp)
  have hz : (v + 1 == 0) = decide (v.toNat = 255) := by
    rw [beq_zero_eq_decide_toNat, decide_eq_decide, BitVec.toNat_add]
    change (v.toNat + 1) % 256 = 0 ↔ v.toNat = 255
    omega
  have hh : ((v &&& 0x0F) == 0x0F) = decide (v.toNat % 16 = 15) :=
    decide_eq_decide.mpr (by rw [← BitVec.toNat_inj, toNat_and_0F]; rfl)
  rw [inc8, hz, hh, hres]

/-- What `dec8` computes (R105), on numbers. -/
theorem dec8_spec (v : Byte) :
    dec8 v = (BitVec.ofNat 8 (v.toNat + 255), decide (v.toNat = 1), decide (v.toNat % 16 = 0)) := by
  have hv := v.isLt
  have hres : v - 1 = BitVec.ofNat 8 (v.toNat + 255) := BitVec.eq_of_toNat_eq (by simp [BitVec.toNat_sub, Nat.add_comm])
  have hz : (v - 1 == 0) = decide (v.toNat = 1) := by
    rw [beq_zero_eq_decide_toNat, decide_eq_decide, BitVec.toNat_sub]
    change (255 + v.toNat) % 256 = 0 ↔ v.toNat = 1
    omega
  have hh : ((v &&& 0x0F) == 0x00) = decide (v.toNat % 16 = 0) :=
    decide_eq_decide.mpr (by rw [← BitVec.toNat_inj, toNat_and_0F]; rfl)
  rw [dec8, hz, hh, hres]

/-- The register form of `INC` and `DEC` (R131, R133): `o` gives the result, Z and H; C is kept. -/
def State.incDecReg (s : State) (o : Byte → Byte × Bool × Bool) (n : Bool) (r : Reg8) : State :=
  (s.setReg r (o (s.getReg r)).1).setFlags (some (o (s.getReg r)).2.1) (some n) (some (o (s.getReg r)).2.2) none

/-- The memory form of `INC` and `DEC` (R132, R134): one read, then one write at HL. -/
def State.incDecHL (s : State) (o : Byte → Byte × Bool × Bool) (n : Bool) : State :=
  ((s.readByte s.hl).2.writeByte s.hl (o (s.answer s.hl)).1).setFlags
    (some (o (s.answer s.hl)).2.1) (some n) (some (o (s.answer s.hl)).2.2) none

section
variable {o : Byte → Byte × Bool × Bool} {res : Byte → Byte} {z h : Byte → Bool} {bytes : List Byte} {i : Instr} {ticks : Byte}
  {n : Bool}

theorem Means.does_incDecReg {r : Reg8} (hi : Means bytes i ticks fun s => s.incDecReg o n r)
    (ho : ∀ v, o v = (res v, z v, h v)) (s : State) :
    Does s bytes i ticks [] [.reg r, .flags] fun t =>
      t.getReg r = res (s.getReg r) ∧ FlagsBecome s t (z (s.getReg r)) n (h (s.getReg r)) s.flagC := by
  obtain rfl : o = fun v => (res v, z v, h v) := funext ho
  refine hi.does ((Effect.setReg s r _).trans (.setFlags _ _ _ _ _)) fun m => ⟨?_, ?_⟩
  · simp [State.incDecReg]
  · exact FlagsBecome.setFlags (s.setReg_f r _) _ _ _ _

theorem Means.does_incDecHL (hi : Means bytes i ticks fun s => s.incDecHL o n) (ho : ∀ v, o v = (res v, z v, h v)) (s : State) :
    let m := s.answer s.hl
    Does s bytes i ticks [.read s.hl m, .write s.hl (res m)] [.flags] fun t =>
      Stored s t s.hl (res m) ∧ FlagsBecome s t (z m) n (h m) s.flagC := by
  obtain rfl : o = fun v => (res v, z v, h v) := funext ho
  exact hi.does (((Effect.readByte s _).trans (.writeByte _ _ _)).trans (.setFlags _ _ _ _ _)) fun m =>
    ⟨.of_read_write rfl, FlagsBecome.setFlags rfl _ _ _ _⟩

end

/-- Settles O20: both replace their operand by its successor or predecessor. -/
theorem incDecByteResult : Obligations.IncDecByteResult := by
  intro s
  exact ⟨fun _ => Means.does_incDecReg {} inc8_spec s, Means.does_incDecHL {} inc8_spec s,
    fun _ => Means.does_incDecReg {} dec8_spec s, Means.does_incDecHL {} dec8_spec s⟩

/-! ## DAA -/

/-- The correction (R135): 6 and 0x60 have no bit in common, so their union is their sum. -/
theorem toNat_daaCorrection (a : Byte) (n h c : Bool) :
    (daaCorrection a n h c).toNat =
      6 * (h || (!n && decide (a.toNat % 16 > 9))).toNat + 96 * (c || (!n && decide (a.toNat > 0x99))).toNat := by
  rw [daaCorrection, toNat_and_0F]
  generalize decide (a.toNat % 16 > 9) = low
  generalize decide (a.toNat > 0x99) = high
  revert n h c low high
  decide

/-- What `daa8` computes (R135), on numbers, by the correction. -/
theorem toNat_daa8 (a : Byte) (n h c : Bool) :
    (daa8 a n h c).1.toNat =
      (if n then a.toNat + 256 - (daaCorrection a n h c).toNat else a.toNat + (daaCorrection a n h c).toNat) % 256 := by
  have hk := (daaCorrection a n h c).isLt
  cases n with
  | false => exact BitVec.toNat_add _ _
  | true =>
    refine (BitVec.toNat_sub _ _).trans ?_
    rw [if_pos rfl]
    omega

/-- Settles O21: the result is A corrected by `daaCorrection`. -/
theorem daaResult : Obligations.DaaResult := by
  intro s low high corr
  have hcorr : (daaCorrection s.a s.flagN s.flagH s.flagC).toNat = corr := toNat_daaCorrection _ _ _ _
  have hi : Means [0x27] .daa 4 fun s =>
      let o := daa8 s.a s.flagN s.flagH s.flagC
      (s.setReg .a o.1).setFlags (some (o.1 == 0)) none (some false) (some o.2) := {}
  refine hi.does ((Effect.setReg s .a _).trans (.setFlags _ _ _ _ _)) fun m => ⟨?_, ?_⟩
  · rw [← hcorr]
    exact toNat_daa8 _ _ _ _
  · rw [← hcorr]
    exact FlagsBecome.setFlags rfl _ _ _ _

/-! ## DAA after ADD and SUB -/

/-- The correction is 0x60 or more exactly when it has the 0x60 (R135). -/
theorem daa_carry (low high : Bool) : decide (6 * low.toNat + 96 * high.toNat ≥ 96) = high := by
  revert low high
  decide

/-- A binary difference of two-digit decimal numbers borrows where the decimal digits do. -/
theorem daa_tests_sub {x y a v : Nat} (ha : a = x / 10 * 16 + x % 10) (hv : v = y / 10 * 16 + y % 10) :
    decide (a % 16 < v % 16) = decide (x % 10 < y % 10) ∧ decide (a < v) = decide (x < y) := by
  simp only [decide_eq_decide]
  omega

section
variable {x y a v : Nat} (hx : x < 100) (hy : y < 100) (ha : a = x / 10 * 16 + x % 10) (hv : v = y / 10 * 16 + y % 10)
include hx hy ha hv

/-- After a binary sum of two-digit decimal numbers the correction has 6 where the low digits carry, and 0x60 where the decimal
sum does. -/
theorem daa_tests_add :
    (decide (a % 16 + v % 16 > 15) || decide ((a + v) % 256 % 16 > 9)) = decide (x % 10 + y % 10 ≥ 10) ∧
    (decide (a + v > 255) || decide ((a + v) % 256 > 0x99)) = decide (x + y ≥ 100) := by
  simp only [← Bool.decide_or, decide_eq_decide]
  omega

/-- Six for each digit that carries makes the binary sum the digits of the decimal one. -/
theorem daa_digits_add :
    ((a + v) % 256 + (6 * (decide (x % 10 + y % 10 ≥ 10)).toNat + 96 * (decide (x + y ≥ 100)).toNat)) % 256 =
      (x + y) % 100 / 10 * 16 + (x + y) % 10 := by
  by_cases hlow : x % 10 + y % 10 ≥ 10 <;> by_cases hhigh : x + y ≥ 100 <;>
    simp only [hlow, hhigh, decide_true, decide_false, Bool.toNat_true, Bool.toNat_false] <;> omega

/-- Six less for each digit that borrows makes the binary difference the digits of the decimal one. -/
theorem daa_digits_sub {d : Nat} (hd : (d : Int) = ((a : Int) - v) % 256) :
    (d + 256 - (6 * (decide (x % 10 < y % 10)).toNat + 96 * (decide (x < y)).toNat)) % 256 =
      (x + 100 - y) % 100 / 10 * 16 + (x + 100 - y) % 10 := by
  by_cases hlow : x % 10 < y % 10 <;> by_cases hhigh : x < y <;>
    simp only [hlow, hhigh, decide_true, decide_false, Bool.toNat_true, Bool.toNat_false] <;> omega

end

/-- Settles O22, from O16, O17 and O21: the flags that the binary operation leaves tell `DAA` which digits carry or borrow. -/
theorem daaAfterAddOrSub : Obligations.DaaAfterAddOrSub := by
  intro s x y n hx hy ha hn
  constructor
  · obtain ⟨-, t, ht, -, -, ⟨hta, -, htn, hth, htc, -⟩, -⟩ := (addAdcResult s).1.2.2 n
    obtain ⟨-, u, hu, -, -, ⟨hua, -, -, -, huc, -⟩, -⟩ := daaResult t
    obtain ⟨hlow, hhigh⟩ := daa_tests_add hx hy ha hn
    simp only [hta, htn, hth, htc, Nat.add_zero, Bool.not_false, Bool.true_and, hlow, hhigh, daa_carry,
      Bool.false_eq_true, if_false] at hua huc
    exact ⟨t, u, ht, hu, hua.trans (daa_digits_add hx hy ha hn), huc⟩
  · obtain ⟨-, t, ht, -, -, ⟨hta, -, htn, hth, htc, -⟩, -⟩ := (subSbcResult s).1.2.2 n
    obtain ⟨-, u, hu, -, -, ⟨hua, -, -, -, huc, -⟩, -⟩ := daaResult t
    obtain ⟨hlow, hhigh⟩ := daa_tests_sub ha hn
    simp only [htn, hth, htc, Nat.add_zero, Bool.not_true, Bool.false_and, Bool.or_false, hlow, hhigh, daa_carry,
      if_true] at hua huc
    simp only [Nat.cast_zero, sub_zero] at hta
    exact ⟨t, u, ht, hu, hua.trans (daa_digits_sub hx hy ha hn hta), huc⟩

/-! ## CPL, SCF, CCF -/

/-- Settles O23: each is a flag write, `CPL` after the complement of A. -/
theorem cplScfCcfResult : Obligations.CplScfCcfResult := by
  intro s
  have hcpl : Means [0x2F] .cpl 4 fun s => (s.setReg .a (s.a ^^^ 0xFF)).setFlags none (some true) (some true) none := {}
  have hscf : Means [0x37] .scf 4 fun s => s.setFlags none (some false) (some false) (some true) := {}
  have hccf : Means [0x3F] .ccf 4 fun s => s.setFlags none (some false) (some false) (some (!s.flagC)) := {}
  refine ⟨hcpl.does ((Effect.setReg s .a _).trans (.setFlags _ _ _ _ _)) fun m => ⟨?_, .setFlags rfl _ _ _ _⟩,
    hscf.does (.setFlags s _ _ _ _) fun m => .setFlags rfl _ _ _ _,
    hccf.does (.setFlags s _ _ _ _) fun m => .setFlags rfl _ _ _ _⟩
  have hnot : s.a ^^^ 0xFF = ~~~s.a := BitVec.xor_allOnes
  change (s.a ^^^ 0xFF).toNat = 255 - s.a.toNat
  rw [hnot, BitVec.toNat_not]

end Sys2Proof.Machine
end

section
/-! 16-bit arithmetic (41_alu16.md, and R233 for its use of `addsp`). A write of a pair as a change of the pair's halves, the
signed offset on integers, and from them each family of instructions. -/

namespace Sys2Proof.Machine

/-! ## A pair of table `rp`, read and written -/

@[simp] theorem State.getRP_setFlags (s : State) (z n h c : Option Bool) (p : RegPair) :
    (s.setFlags z n h c).getRP p = s.getRP p := by
  cases p <;> rfl

theorem State.sameOutside_setRP (s : State) (p : RegPair) (v : Word) : SameOutside (pairParts p) s (s.setRP p v) := by
  cases p with
  | bc => exact s.sameOutside_setPair .bc v
  | de => exact s.sameOutside_setPair .de v
  | hl => exact s.sameOutside_setPair .hl v
  | sp =>
    intro q hq
    cases q with
    | reg r => cases r <;> rfl
    | sp => exact absurd hq (by decide)
    | debug => exact ⟨rfl, rfl, rfl⟩
    | env => exact ⟨rfl, rfl⟩
    | _ => rfl

theorem Effect.setRP (s : State) (p : RegPair) (v : Word) : Effect [] (pairParts p) s (s.setRP p v) :=
  .silent (by simp) (by simp) (by simp) (s.sameOutside_setRP p v)

/-! ## ADD HL,rr -/

/-- Settles O24: HL takes the sum, and then the flags are written but for Z. -/
theorem addHLResult : Obligations.AddHLResult := by
  intro s p
  obtain ⟨hres, hh, hc⟩ := add16_spec s.hl (s.getRP p)
  have hi : Means [0x09 + 16 * pairIndex p] (.addHLPair p) 8 fun s =>
      let o := add16 s.hl (s.getRP p)
      (s.setRP .hl o.1).setFlags none (some false) (some o.2.1) (some o.2.2) := {}
  refine hi.does ((Effect.setRP s .hl _).trans (.setFlags _ _ _ _ _)) fun m => ⟨?_, ?_⟩
  · change ((s.setHL (add16 s.hl (s.getRP p)).1).hl).toNat = _
    rw [State.hl_setHL, hres, BitVec.toNat_add]
  · rw [← hh, ← hc]
    exact FlagsBecome.setFlags rfl _ _ _ _

/-! ## ADD SP,e and LD HL,SP+e -/

/-- What `addsp` computes (R151), on integers: the offset is signed in the result, and unsigned in the carries. -/
theorem addsp_spec (sp : Word) (u : Byte) :
    ((addsp sp u).1.toNat : Int) = ((sp.toNat : Int) + u.toInt) % 65536 ∧
    (addsp sp u).2.1 = decide (sp.toNat % 16 + u.toNat % 16 > 15) ∧
    (addsp sp u).2.2 = decide (sp.toNat % 256 + u.toNat > 255) := by
  have h4 : (sp &&& 0x000F).toNat = sp.toNat % 16 := by simpa using Nat.and_two_pow_sub_one_eq_mod sp.toNat 4
  have h8 : (sp &&& 0x00FF).toNat = sp.toNat % 256 := by simpa using Nat.and_two_pow_sub_one_eq_mod sp.toNat 8
  refine ⟨?_, ?_, ?_⟩
  · simp only [addsp, sext16, BitVec.signExtend, BitVec.toNat_add, BitVec.toNat_ofInt]
    omega
  · simp only [addsp, h4, toNat_and_0F]
  · simp only [addsp, h8]

/-- The shared shape of the two instructions (R153, R233): SP with a signed offset, written to the pair `p`. -/
def State.addOffsetTo (s : State) (p : RegPair) (e : Byte) : State :=
  let o := addsp s.sp e
  (s.setRP p o.1).setFlags (some false) (some false) (some o.2.1) (some o.2.2)

theorem Means.does_addOffsetTo {bytes : List Byte} {i : Instr} {ticks : Byte} {p : RegPair} {e : Byte}
    (hi : Means bytes i ticks fun s => s.addOffsetTo p e) (s : State) :
    Does s bytes i ticks [] (pairParts p ++ [.flags]) fun t =>
      ((t.getRP p).toNat : Int) = ((s.sp.toNat : Int) + e.toInt) % 65536 ∧
      FlagsBecome s t false false (decide (s.sp.toNat % 16 + e.toNat % 16 > 15))
        (decide (s.sp.toNat % 256 + e.toNat > 255)) := by
  obtain ⟨hres, hh, hc⟩ := addsp_spec s.sp e
  refine hi.does ((Effect.setRP s p _).trans (.setFlags _ _ _ _ _)) fun m => ⟨?_, ?_⟩
  · rw [State.getRP_setCycles, State.addOffsetTo, State.getRP_setFlags, State.getRP_setRP_same, hres]
  · rw [← hh, ← hc]
    exact FlagsBecome.setFlags (s.setRP_f p _) _ _ _ _

/-- Settles O25: both write the same sum and the same flags, one to SP and one to HL. -/
theorem spOffsetResult : Obligations.SpOffsetResult := by
  intro s e
  exact ⟨Means.does_addOffsetTo (p := .sp) {} s, Means.does_addOffsetTo (p := .hl) {} s⟩

/-! ## INC rr and DEC rr -/

/-- Settles O26: each is one write of the pair. -/
theorem incDecPairResult : Obligations.IncDecPairResult := by
  intro s p
  have hinc : Means [0x03 + 16 * pairIndex p] (.incPair p) 8 fun s => s.setRP p (s.getRP p + 1) := {}
  have hdec : Means [0x0B + 16 * pairIndex p] (.decPair p) 8 fun s => s.setRP p (s.getRP p - 1) := {}
  refine ⟨hinc.does (.setRP s p _) fun m => ?_, hdec.does (.setRP s p _) fun m => ?_⟩
  · rw [State.getRP_setCycles, State.getRP_setRP_same, BitVec.toNat_add]
    rfl
  · rw [State.getRP_setCycles, State.getRP_setRP_same, BitVec.toNat_sub, Nat.add_comm]
    rfl

end Sys2Proof.Machine
end

section
/-! Accumulator rotates (42_rotate_a.md). The rotates on numbers, and each accumulator rotate as the register form on A with Z
forced to 0. -/

namespace Sys2Proof.Machine

/-! ## The rotates on numbers -/

theorem toNat_bitByte (c : Bool) : (bitByte c).toNat = c.toNat := by cases c <;> rfl

theorem toNat_bitByte_shiftLeft_seven (c : Bool) : (bitByte c <<< 7).toNat = 128 * c.toNat := by cases c <;> rfl

/-- The top bit, on numbers. -/
theorem bit7_eq_decide (v : Byte) : v.getLsbD 7 = decide (v.toNat ≥ 128) :=
  v.msb_eq_getLsbD_last.symm.trans v.msb_eq_decide

/-- The bottom bit, on numbers. -/
theorem bit0_eq_decide (v : Byte) : v.getLsbD 0 = decide (v.toNat % 2 = 1) := Nat.testBit_zero v.toNat

/-- A shift left empties bit 0, so a bit put in there adds. -/
theorem shiftLeft_or_bitByte (v : Byte) (c : Bool) : v <<< 1 ||| bitByte c = BitVec.ofNat 8 (2 * v.toNat + c.toNat) := by
  have hdisjoint : v <<< 1 &&& bitByte c = 0 := by
    cases c with
    | false => exact BitVec.and_zero
    | true => simp [bitByte, BitVec.and_one_eq_setWidth_ofBool_getLsbD]
  apply BitVec.eq_of_toNat_eq
  rw [← BitVec.add_eq_or_of_and_eq_zero _ _ hdisjoint, BitVec.toNat_add, toNat_bitByte, BitVec.toNat_shiftLeft,
    Nat.shiftLeft_eq, Nat.mul_comm, BitVec.toNat_ofNat, Nat.mod_add_mod]

/-- A shift right empties bit 7, so a bit put in there adds. -/
theorem ushiftRight_or_bitByte (v : Byte) (c : Bool) :
    v >>> 1 ||| bitByte c <<< 7 = BitVec.ofNat 8 (v.toNat / 2 + 128 * c.toNat) := by
  have hdisjoint : v >>> 1 &&& bitByte c <<< 7 = 0 := by
    cases c with
    | false => exact BitVec.and_zero
    | true =>
      apply BitVec.eq_of_getLsbD_eq
      intro i hi
      interval_cases i <;> simp [bitByte]
  apply BitVec.eq_of_toNat_eq
  rw [← BitVec.add_eq_or_of_and_eq_zero _ _ hdisjoint, BitVec.toNat_add, toNat_bitByte_shiftLeft_seven,
    BitVec.toNat_ushiftRight, Nat.shiftRight_one, BitVec.toNat_ofNat]

/-- What `rl8` computes (R162, R176), on numbers. -/
theorem rl8_spec (cin : Bool) (v : Byte) :
    rl8 cin v = (BitVec.ofNat 8 (2 * v.toNat + cin.toNat), decide (v.toNat ≥ 128)) := by
  rw [rl8, shiftLeft_or_bitByte, bit7_eq_decide]

/-- What `rr8` computes (R163, R178), on numbers. -/
theorem rr8_spec (cin : Bool) (v : Byte) :
    rr8 cin v = (BitVec.ofNat 8 (v.toNat / 2 + 128 * cin.toNat), decide (v.toNat % 2 = 1)) := by
  rw [rr8, ushiftRight_or_bitByte, bit0_eq_decide]

/-- What `rlc8` computes (R160, R172), on numbers. -/
theorem rlc8_spec (v : Byte) :
    rlc8 v = (BitVec.ofNat 8 (2 * v.toNat + (decide (v.toNat ≥ 128)).toNat), decide (v.toNat ≥ 128)) := by
  rw [rlc8, shiftLeft_or_bitByte, bit7_eq_decide]

/-- What `rrc8` computes (R161, R174), on numbers. -/
theorem rrc8_spec (v : Byte) :
    rrc8 v = (BitVec.ofNat 8 (v.toNat / 2 + 128 * (decide (v.toNat % 2 = 1)).toNat), decide (v.toNat % 2 = 1)) := by
  rw [rrc8, ushiftRight_or_bitByte, bit0_eq_decide]

/-! ## RLCA, RRCA, RLA, RRA -/

theorem Effect.rotateA (s : State) (op : Byte → Byte × Bool) : Effect [] [.reg .a, .flags] s (s.rotateA op) :=
  (setReg s .a _).trans (setFlags _ _ _ _ _)

/-- An accumulator rotate by `op`, which takes the carry before the instruction. -/
theorem Means.does_rotateA {bytes : List Byte} {i : Instr} {op : Bool → Byte → Byte × Bool}
    (hi : Means bytes i 4 fun s => s.rotateA (op s.flagC)) {s : State} {res : Nat} {carry : Bool}
    (hop : op s.flagC s.a = (BitVec.ofNat 8 res, carry)) :
    Does s bytes i 4 [] [.reg .a, .flags] fun t => t.a.toNat = res % 256 ∧ FlagsBecome s t false false false carry := by
  refine hi.does (.rotateA s _) fun m => ?_
  rw [State.rotateA, hop]
  exact ⟨BitVec.toNat_ofNat res 8, FlagsBecome.setFlags rfl _ _ _ _⟩

/-- Settles O27: each writes A and the flags by its rotate; the circular ones take no carry. -/
theorem accumulatorRotateResult : Obligations.AccumulatorRotateResult := by
  intro s
  exact ⟨Means.does_rotateA (op := fun _ => rlc8) {} (rlc8_spec s.a),
    Means.does_rotateA (op := fun _ => rrc8) {} (rrc8_spec s.a),
    Means.does_rotateA (op := rl8) {} (rl8_spec s.flagC s.a),
    Means.does_rotateA (op := rr8) {} (rr8_spec s.flagC s.a)⟩

/-! ## Against the rotates of A in the secondary table -/

/-- Clearing Z is masking bit 7 off, whatever was written there. -/
theorem putBit_seven_false (z : Option Bool) (w : Byte) : putBit 7 (some false) w = putBit 7 z w &&& 0x7F := by
  have hput : putBit 7 (some false) w = w &&& 0x7F := rfl
  rw [hput]
  match z with
  | none => rfl
  | some false => exact (BitVec.and_assoc w 0x7F 0x7F).symm
  | some true => exact (BitVec.and_or_distrib_right.trans BitVec.or_zero).symm

/-- An accumulator rotate is the register form on A with bit 7 of the flag byte cleared. -/
theorem State.rotateA_eq_shiftReg (s : State) (op : Byte → Byte × Bool) :
    s.rotateA op = { s.shiftReg op .a with f := (s.shiftReg op .a).f &&& 0x7F } :=
  congrArg (fun f => { s.shiftReg op .a with f := f }) (putBit_seven_false _ _)

/-- The register form of a rotate or shift says in Z whether its result is zero (R171). -/
theorem State.flagZ_shiftReg (s : State) (op : Byte → Byte × Bool) (r : Reg8) :
    (s.shiftReg op r).flagZ = decide ((s.shiftReg op r).getReg r = 0) := by
  rw [State.shiftReg, State.shiftFlags, State.flagZ_setFlags, State.getReg_setFlags, State.getReg_setReg, if_pos rfl]
  rfl

/-- The two instructions of a pair, both by the rotate `op`. -/
theorem Means.rotateA_shiftReg {bytes bytes' : List Byte} {i j : Instr} {op : Bool → Byte → Byte × Bool}
    (hi : Means bytes i 4 fun s => s.rotateA (op s.flagC)) (hj : Means bytes' j 8 fun s => s.shiftReg (op s.flagC) .a)
    (s : State) :
    ∃ t u, exec i s = .next t ∧ exec j s = .next u ∧
      t.flagZ = false ∧ u.flagZ = decide (u.a = 0) ∧
      t = { u with f := t.f, cycles := t.cycles } ∧ t.f = u.f &&& 0x7F ∧
      t.cycles = s.ticksAt (encode i) true 4 ∧ u.cycles = s.ticksAt (encode j) true 8 := by
  have hrot := s.rotateA_eq_shiftReg (op s.flagC)
  refine ⟨_, _, hi.exec_eq s, hj.exec_eq s, State.flagZ_setFlags _ _ _ _ _, s.flagZ_shiftReg (op s.flagC) .a, ?_, ?_,
    congrArg (s.ticksAt (encode i) true) hi.taken_eq, congrArg (s.ticksAt (encode j) true) hj.taken_eq⟩
  · rw [hrot]
    rfl
  · rw [hrot]
    rfl

/-- Settles O30: the two of a pair share their rotate. -/
theorem rotatesDifferOnlyInZ : Obligations.RotatesDifferOnlyInZ := by
  intro s i j hpair
  simp only [List.mem_cons, List.not_mem_nil, or_false, Prod.mk.injEq] at hpair
  obtain ⟨rfl, rfl⟩ | ⟨rfl, rfl⟩ | ⟨rfl, rfl⟩ | ⟨rfl, rfl⟩ := hpair
  · exact Means.rotateA_shiftReg (op := fun _ => rlc8) {} {} s
  · exact Means.rotateA_shiftReg (op := fun _ => rrc8) {} {} s
  · exact Means.rotateA_shiftReg (op := rl8) {} {} s
  · exact Means.rotateA_shiftReg (op := rr8) {} {} s

end Sys2Proof.Machine
end

section
/-! The secondary table (43_cb.md). Rotates, shifts, `SWAP` and the bit operations on numbers, and from them each family on a
register and on the byte at HL (R170). -/

namespace Sys2Proof.Machine

/-! ## The two forms of an operation on its operand -/

/-- A rotate or shift by `op`, which takes the carry before the instruction. -/
theorem forEachTarget_shift {s : State} {onR : Reg8 → Instr} {atHL : Instr} {base : Byte} {op : Bool → Byte → Byte × Bool}
    {f : Byte → Byte} {carry : Byte → Bool}
    (hR : ∀ r, Means [0xCB, base + regIndex r] (onR r) 8 fun s => s.shiftReg (op s.flagC) r)
    (hHL : Means [0xCB, base + 6] atHL 16 fun s => s.shiftHL (op s.flagC))
    (hop : ∀ v, op s.flagC v = (f v, carry v)) :
    ForEachTarget s onR atHL base [.flags] f fun t v => FlagsBecome s t (decide (f v = 0)) false false (carry v) := by
  have hfun : op s.flagC = fun v => (f v, carry v) := funext hop
  constructor
  · intro r
    refine (hR r).does ((Effect.setReg s r _).trans (.setFlags _ _ _ _ _)) fun n => ?_
    rw [hfun]
    exact ⟨by simp [State.shiftReg, State.shiftFlags], .setFlags (s.setReg_f r _) _ _ _ _⟩
  · have hres : (op s.flagC (s.answer s.hl)).1 = f (s.answer s.hl) := congrArg Prod.fst (hop _)
    rw [← hres]
    refine hHL.does (((Effect.readByte s s.hl).trans (.writeByte _ _ _)).trans (.setFlags _ _ _ _ _)) fun n => ?_
    rw [hfun]
    exact ⟨.of_read_write rfl, .setFlags rfl _ _ _ _⟩

/-- A replacement of the operand by `op` that changes no flag. -/
theorem forEachTarget_modify {s : State} {onR : Reg8 → Instr} {atHL : Instr} {base : Byte} {op f : Byte → Byte}
    (hR : ∀ r, Means [0xCB, base + regIndex r] (onR r) 8 fun s => s.modifyReg op r)
    (hHL : Means [0xCB, base + 6] atHL 16 fun s => s.modifyHL op) (hop : ∀ v, op v = f v) :
    ForEachTarget s onR atHL base [] f fun _ _ => True := by
  obtain rfl : op = f := funext hop
  refine ⟨fun r => (hR r).does (.setReg s r _) fun n => ⟨?_, trivial⟩,
    hHL.does ((Effect.readByte s s.hl).trans (.writeByte _ _ _)) fun n => ⟨.of_read_write rfl, trivial⟩⟩
  simp [State.modifyReg]

/-! ## Rotates -/

/-- `RLC` is the rotation of the byte (R172). -/
theorem rlc8_eq_rotateLeft (v : Byte) : rlc8 v = (v.rotateLeft 1, decide (v.toNat ≥ 128)) := by
  have hbit : v >>> 7 = bitByte (v.getLsbD 7) := by
    apply BitVec.eq_of_toNat_eq
    have hv := v.isLt
    rw [toNat_bitByte, bit7_eq_decide, BitVec.toNat_ushiftRight, Nat.shiftRight_eq_div_pow]
    by_cases h : v.toNat ≥ 128 <;> simp [h] <;> omega
  rw [rlc8, ← hbit, bit7_eq_decide]
  rfl

/-- `RRC` is the rotation of the byte (R174). -/
theorem rrc8_eq_rotateRight (v : Byte) : rrc8 v = (v.rotateRight 1, decide (v.toNat % 2 = 1)) := by
  have hbit : v <<< 7 = bitByte (v.getLsbD 0) <<< 7 := by
    apply BitVec.eq_of_toNat_eq
    rw [toNat_bitByte_shiftLeft_seven, bit0_eq_decide, BitVec.toNat_shiftLeft, Nat.shiftLeft_eq]
    by_cases h : v.toNat % 2 = 1 <;> simp [h] <;> omega
  rw [rrc8, ← hbit, bit0_eq_decide]
  rfl

/-- Settles O28: each form writes the operand and the flags by its rotate; the circular ones take no carry. -/
theorem rotateResult : Obligations.RotateResult := by
  intro s
  exact ⟨forEachTarget_shift (op := fun _ => rlc8) (fun _ => {}) {} rlc8_eq_rotateLeft,
    forEachTarget_shift (op := fun _ => rrc8) (fun _ => {}) {} rrc8_eq_rotateRight,
    forEachTarget_shift (op := rl8) (fun _ => {}) {} (rl8_spec s.flagC),
    forEachTarget_shift (op := rr8) (fun _ => {}) {} (rr8_spec s.flagC)⟩

/-! ## Shifts and SWAP -/

/-- `SLA` is `RL` with no carry in (R180). -/
theorem sla8_spec (v : Byte) : sla8 v = (BitVec.ofNat 8 (2 * v.toNat), decide (v.toNat ≥ 128)) := by
  have hrl : sla8 v = rl8 false v := Prod.ext BitVec.or_zero.symm rfl
  rw [hrl, rl8_spec, Bool.toNat_false, Nat.add_zero]

/-- `SRL` is `RR` with no carry in (R186). -/
theorem srl8_spec (v : Byte) : srl8 v = (BitVec.ofNat 8 (v.toNat / 2), decide (v.toNat % 2 = 1)) := by
  have hrr : srl8 v = rr8 false v := Prod.ext BitVec.or_zero.symm rfl
  rw [hrr, rr8_spec, Bool.toNat_false, Nat.mul_zero, Nat.add_zero]

/-- `SRA` is the arithmetic shift of the byte (R182): bit 7 is the sign. -/
theorem sra8_spec (v : Byte) : sra8 v = (v.sshiftRight 1, decide (v.toNat % 2 = 1)) := by
  refine Prod.ext ?_ (bit0_eq_decide v)
  apply BitVec.eq_of_getLsbD_eq
  intro i hi
  interval_cases i <;> simp [sra8, BitVec.getElem_sshiftRight, BitVec.msb_eq_getLsbD_last]

/-- The two nibbles of `SWAP` (R184) have no bit in common, so their union is their sum. -/
theorem swap8_spec (v : Byte) : swap8 v = (BitVec.ofNat 8 (v.toNat % 16 * 16 + v.toNat / 16), false) := by
  have hdisjoint : v <<< 4 &&& v >>> 4 = 0 := by
    apply BitVec.eq_of_getLsbD_eq
    intro i hi
    interval_cases i <;> simp
  refine Prod.ext (BitVec.eq_of_toNat_eq ?_) rfl
  rw [swap8, ← BitVec.add_eq_or_of_and_eq_zero _ _ hdisjoint, BitVec.toNat_add_of_and_eq_zero hdisjoint,
    BitVec.toNat_shiftLeft, BitVec.toNat_ushiftRight, Nat.shiftLeft_eq, Nat.shiftRight_eq_div_pow, BitVec.toNat_ofNat]
  omega

/-- Settles O29: each form writes the operand and the flags by its shift; none takes the carry. -/
theorem shiftSwapResult : Obligations.ShiftSwapResult := by
  intro s
  exact ⟨forEachTarget_shift (op := fun _ => sla8) (fun _ => {}) {} sla8_spec,
    forEachTarget_shift (op := fun _ => sra8) (fun _ => {}) {} sra8_spec,
    forEachTarget_shift (op := fun _ => swap8) (fun _ => {}) {} swap8_spec,
    forEachTarget_shift (op := fun _ => srl8) (fun _ => {}) {} srl8_spec⟩

/-! ## BIT -/

/-- Z after `BIT` (R188), on numbers. -/
theorem not_testBit8 (b : BitVec 3) (v : Byte) : (!testBit8 b v) = decide (v.toNat / 2 ^ b.toNat % 2 = 0) := by
  have hbit : testBit8 b v = decide (v.toNat / 2 ^ b.toNat % 2 = 1) := Nat.testBit_eq_decide_div_mod_eq
  rw [hbit, ← decide_not, decide_eq_decide]
  omega

/-- Settles O31: both forms are a flag write by the tested bit, at HL after one read. -/
theorem bitTestResult : Obligations.BitTestResult := by
  intro s b flags
  have hR (r : Reg8) : Means [0xCB, 0x40 + 8 * bitIndex b + regIndex r] (.bitR b r) 8 fun s =>
      s.setFlags (some (!testBit8 b (s.getReg r))) (some false) (some true) none := {}
  have hHL : Means [0xCB, 0x46 + 8 * bitIndex b] (.bitAtHL b) 12 fun s =>
      (s.readByte s.hl).2.setFlags (some (!testBit8 b (s.answer s.hl))) (some false) (some true) none := {}
  have hflags {t : State} (hf : t.f = s.f) (v : Byte) :
      flags (t.setFlags (some (!testBit8 b v)) (some false) (some true) none) v := by
    rw [not_testBit8]
    exact FlagsBecome.setFlags hf _ _ _ _
  exact ⟨fun r => (hR r).does (.setFlags s _ _ _ _) fun n => hflags rfl _,
    hHL.does ((Effect.readByte s s.hl).trans (.setFlags _ _ _ _ _)) fun n => hflags rfl _⟩

/-! ## RES and SET -/

theorem toNat_bitMask (b : BitVec 3) : (1#8 <<< b.toNat).toNat = 2 ^ b.toNat := by
  rw [← BitVec.twoPow_eq, BitVec.toNat_twoPow_of_lt b.isLt]

/-- The bit is not in what `RES` leaves (R190). -/
theorem bitMask_and_resBit8 (b : BitVec 3) (v : Byte) : 1#8 <<< b.toNat &&& resBit8 b v = 0 := by
  rw [resBit8, BitVec.and_comm v, ← BitVec.and_assoc, BitVec.and_not_self]
  exact BitVec.zero_and

/-- A byte is what its bit is worth and what `RES` leaves (R190). -/
theorem toNat_resBit8 (b : BitVec 3) (v : Byte) :
    v.toNat / 2 ^ b.toNat % 2 * 2 ^ b.toNat + (resBit8 b v).toNat = v.toNat := by
  have hdisjoint : v &&& 1#8 <<< b.toNat &&& resBit8 b v = 0 := by
    rw [BitVec.and_assoc, bitMask_and_resBit8]
    exact BitVec.and_zero
  have hunion : v &&& 1#8 <<< b.toNat ||| resBit8 b v = v := by
    rw [resBit8, ← BitVec.and_or_distrib_left, BitVec.or_not_self, BitVec.and_allOnes]
  calc v.toNat / 2 ^ b.toNat % 2 * 2 ^ b.toNat + (resBit8 b v).toNat
    _ = (v &&& 1#8 <<< b.toNat).toNat + (resBit8 b v).toNat := by
      rw [BitVec.toNat_and, toNat_bitMask, Nat.and_two_pow, Nat.toNat_testBit]
    _ = v.toNat := by
      rw [← BitVec.toNat_add_of_and_eq_zero hdisjoint, BitVec.add_eq_or_of_and_eq_zero _ _ hdisjoint, hunion]

theorem or_eq_or_and_not (m v : Byte) : m ||| v = m ||| v &&& ~~~m :=
  BitVec.eq_of_getElem_eq (by simp [Bool.or_and_distrib_left])

/-- `SET` puts the bit into what `RES` leaves (R192). -/
theorem toNat_setBit8 (b : BitVec 3) (v : Byte) : (setBit8 b v).toNat = 2 ^ b.toNat + (resBit8 b v).toNat := by
  have hunion : setBit8 b v = 1#8 <<< b.toNat ||| resBit8 b v := by
    rw [setBit8, resBit8, BitVec.or_comm, or_eq_or_and_not]
  rw [hunion, ← BitVec.add_eq_or_of_and_eq_zero _ _ (bitMask_and_resBit8 b v),
    BitVec.toNat_add_of_and_eq_zero (bitMask_and_resBit8 b v), toNat_bitMask]

/-- What `RES` computes (R190), on numbers. -/
theorem resBit8_spec (b : BitVec 3) (v : Byte) :
    resBit8 b v = BitVec.ofNat 8 (v.toNat - v.toNat / 2 ^ b.toNat % 2 * 2 ^ b.toNat) := by
  rw [Nat.sub_eq_of_eq_add' (toNat_resBit8 b v).symm, BitVec.ofNat_toNat, BitVec.setWidth_eq]

/-- What `SET` computes (R192), on numbers. -/
theorem setBit8_spec (b : BitVec 3) (v : Byte) :
    setBit8 b v = BitVec.ofNat 8 (v.toNat + (1 - v.toNat / 2 ^ b.toNat % 2) * 2 ^ b.toNat) := by
  have hsum : v.toNat + (1 - v.toNat / 2 ^ b.toNat % 2) * 2 ^ b.toNat = (setBit8 b v).toNat := by
    rw [toNat_setBit8]
    have hres := toNat_resBit8 b v
    obtain h | h := Nat.mod_two_eq_zero_or_one (v.toNat / 2 ^ b.toNat) <;> rw [h] at hres ⊢ <;> omega
  rw [hsum, BitVec.ofNat_toNat, BitVec.setWidth_eq]

/-- Settles O32: each form replaces the operand alone, whether its bit changes or not. -/
theorem resSetResult : Obligations.ResSetResult := by
  intro s b
  have hencode (lo : Byte) : lo + 6 + 8 * bitIndex b = lo + 8 * bitIndex b + 6 := add_right_comm _ _ _
  exact ⟨forEachTarget_modify (fun _ => {}) { encode_eq := congrArg ([0xCB, ·]) (hencode 0x80) } (resBit8_spec b),
    forEachTarget_modify (fun _ => {}) { encode_eq := congrArg ([0xCB, ·]) (hencode 0xC0) } (setBit8_spec b)⟩

end Sys2Proof.Machine
end

section
/-! The 8-bit loads (44_load8.md). A load of A and a store as shapes that their instructions share, the high-page address on
numbers, and from them each family; the forms that move HL are one of these and then a write of HL. -/

namespace Sys2Proof.Machine

/-! ## Loads of a register -/

/-- The pause flag after a running core's fetch (R300). -/
theorem State.paused_prepare {s : State} (h : s.runState = .running) :
    s.prepare.2.paused = (s.paused || s.breakpoint == some s.pc || (s.softBreak && s.answer s.pc == 0x40)) := by
  rw [State.prepare_running h, State.fetchInstr_eq]

/-- Settles O34: each load is one write of the destination register, after one read at the old HL in the memory form. -/
theorem loadRegisterResult : Obligations.LoadRegisterResult := by
  intro s
  have hR (dst src : Reg8) : Means [0x40 + 8 * regIndex dst + regIndex src] (.ldRR dst src) 4 fun s =>
      s.setReg dst (s.getReg src) := {}
  have hN (r : Reg8) (n : Byte) : Means [0x06 + 8 * regIndex r, n] (.ldRN r n) 8 fun s => s.setReg r n := {}
  have hHL (r : Reg8) : Means [0x46 + 8 * regIndex r] (.ldRAtHL r) 8 fun s =>
      (s.readByte s.hl).2.setReg r (s.answer s.hl) := {}
  have hwritten (t : State) (r : Reg8) (v n : Byte) : ((t.setReg r v).setCycles n).getReg r = v := by simp
  refine ⟨fun dst src => (hR dst src).does (.setReg s dst _) (hwritten _ _ _), fun hrun hsoft hop => ?_,
    fun r n => (hN r n).does (.setReg s r n) (hwritten _ _ _),
    fun r => (hHL r).does ((Effect.readByte s s.hl).trans (.setReg _ r _)) (hwritten _ _ _)⟩
  rw [State.paused_prepare hrun, hsoft, hop]
  exact Bool.or_true _

/-! ## The shapes of the other loads and the stores -/

theorem Effect.loadA (s : State) (addr : Word) : Effect [.read addr (s.answer addr)] [.reg .a] s (s.loadA addr) :=
  (Effect.readByte s addr).trans (.setReg _ .a _)

theorem Effect.setHL (s : State) (v : Word) : Effect [] [.reg .h, .reg .l] s (s.setHL v) := .setRP s .hl v

section

variable {bytes : List Byte} {i : Instr} {ticks : Byte}

/-- An instruction that stores one byte. -/
theorem Means.does_writeByte {addr : State → Word} {v : State → Byte}
    (hi : Means bytes i ticks fun s => s.writeByte (addr s) (v s)) (s : State) :
    Does s bytes i ticks [.write (addr s) (v s)] [] fun t => Stored s t (addr s) (v s) :=
  hi.does (.writeByte s _ _) fun _ => .of_bus rfl

/-- An instruction that loads A from memory. -/
theorem Means.does_loadA {addr : State → Word} (hi : Means bytes i ticks fun s => s.loadA (addr s)) (s : State) :
    Does s bytes i ticks [.read (addr s) (s.answer (addr s))] [.reg .a] fun t => t.a = s.answer (addr s) :=
  hi.does (.loadA s _) fun _ => rfl

end

/-- The high-page address on numbers (R51): `n` is unsigned. -/
theorem hiPage_eq (n : Byte) : hiPage n = BitVec.ofNat 16 (0xFF00 + n.toNat) := by
  rw [BitVec.ofNat_add, BitVec.ofNat_toNat]
  rfl

/-! ## Stores at HL -/

/-- Settles O35: each is one write at HL. -/
theorem storeAtHLResult : Obligations.StoreAtHLResult := fun s =>
  ⟨fun r => Means.does_writeByte (addr := State.hl) (v := fun s => s.getReg r) {} s,
    fun n => Means.does_writeByte (addr := State.hl) (v := fun _ => n) {} s⟩

/-! ## Loads and stores of A -/

/-- Settles O36: each is a load of A from its address. -/
theorem loadAResult : Obligations.LoadAResult := by
  intro s loads
  have hNN (lo hi : Byte) : Means [0xFA, lo, hi] (.ldAAtNN (joinBytes hi lo)) 16 fun s => s.loadA (joinBytes hi lo) :=
    { encode_eq := withWord_joinBytes 0xFA lo hi }
  simp only [← hiPage_eq]
  exact ⟨Means.does_loadA (addr := State.bc) {} s, Means.does_loadA (addr := State.de) {} s,
    fun lo hi => (hNN lo hi).does_loadA s,
    Means.does_loadA (addr := fun s => hiPage s.c) {} s,
    fun n => Means.does_loadA (addr := fun _ => hiPage n) {} s⟩

/-- Settles O37: each is a write of A at its address. -/
theorem storeAResult : Obligations.StoreAResult := by
  intro s stores
  have hNN (lo hi : Byte) : Means [0xEA, lo, hi] (.ldAtNNA (joinBytes hi lo)) 16 fun s =>
      s.writeByte (joinBytes hi lo) s.a :=
    { encode_eq := withWord_joinBytes 0xEA lo hi }
  simp only [← hiPage_eq]
  exact ⟨Means.does_writeByte (addr := State.bc) (v := State.a) {} s,
    Means.does_writeByte (addr := State.de) (v := State.a) {} s,
    fun lo hi => (hNN lo hi).does_writeByte s,
    Means.does_writeByte (addr := fun s => hiPage s.c) (v := State.a) {} s,
    fun n => Means.does_writeByte (addr := fun _ => hiPage n) (v := State.a) {} s⟩

/-! ## The forms that move HL -/

theorem toNat_sub_one (addr : Word) : (addr - 1).toNat = (addr.toNat + 65535) % 65536 := by
  rw [BitVec.toNat_sub, Nat.add_comm]
  rfl

section

variable {bytes : List Byte} {i : Instr} {ticks : Byte} {move : Word → Word} {delta : Nat}

/-- HL after its move, which the end of the instruction leaves. -/
theorem State.toNat_hl_setHL (hmove : ∀ v, (move v).toNat = (v.toNat + delta) % 65536) (s : State) (v : Word) (n : Byte) :
    ((s.setHL (move v)).setCycles n).hl.toNat = (v.toNat + delta) % 65536 := by
  rw [State.hl_setCycles, State.hl_setHL, hmove]

theorem Means.does_loadA_moveHL (hi : Means bytes i ticks fun s => (s.loadA s.hl).setHL (move s.hl))
    (hmove : ∀ v, (move v).toNat = (v.toNat + delta) % 65536) (s : State) :
    Does s bytes i ticks [.read s.hl (s.answer s.hl)] [.reg .a, .reg .h, .reg .l] fun t =>
      t.a = s.answer s.hl ∧ t.hl.toNat = (s.hl.toNat + delta) % 65536 :=
  hi.does ((Effect.loadA s s.hl).trans (.setHL _ _)) fun n => ⟨rfl, State.toNat_hl_setHL hmove _ _ n⟩

theorem Means.does_storeA_moveHL (hi : Means bytes i ticks fun s => (s.writeByte s.hl s.a).setHL (move s.hl))
    (hmove : ∀ v, (move v).toNat = (v.toNat + delta) % 65536) (s : State) :
    Does s bytes i ticks [.write s.hl s.a] [.reg .h, .reg .l] fun t =>
      Stored s t s.hl s.a ∧ t.hl.toNat = (s.hl.toNat + delta) % 65536 :=
  hi.does ((Effect.writeByte s s.hl s.a).trans (.setHL _ _)) fun n => ⟨.of_bus rfl, State.toNat_hl_setHL hmove _ _ n⟩

end

/-- Settles O38: each is the load or the store at the old HL, and then a write of HL. -/
theorem loadStoreMovesHL : Obligations.LoadStoreMovesHL := fun s =>
  ⟨Means.does_loadA_moveHL (move := (· + 1)) {} toNat_add_one s,
    Means.does_loadA_moveHL (move := (· - 1)) {} toNat_sub_one s,
    Means.does_storeA_moveHL (move := (· + 1)) {} toNat_add_one s,
    Means.does_storeA_moveHL (move := (· - 1)) {} toNat_sub_one s⟩

end Sys2Proof.Machine
end

section
/-! The 16-bit loads and the stack (45_load16_stack.md). A word access, a push and a pop as changes of the state, what a pop reads
of a word stored in memory, and from these each family of instructions. -/

namespace Sys2Proof.Machine

/-! ## Words on numbers -/

theorem toNat_joinBytes_high_first (hi lo : Byte) : (joinBytes hi lo).toNat = 256 * hi.toNat + lo.toNat := by
  rw [toNat_joinBytes, Nat.mul_comm]

theorem toNat_add_two (addr : Word) : (addr + 2).toNat = (addr.toNat + 2) % 65536 := BitVec.toNat_add addr 2

theorem toNat_sub_two (addr : Word) : (addr - 2).toNat = (addr.toNat + 65534) % 65536 := by
  rw [BitVec.toNat_sub, Nat.add_comm]
  rfl

/-! ## The effects of word accesses, push and pop -/

theorem Effect.mono {events : List Event} {changes changes' : List Part} {s t : State} (h : Effect events changes s t)
    (hsub : changes ⊆ changes') : Effect events changes' s t :=
  { h with frame := h.frame.mono (List.cons_subset_cons _ hsub) }

theorem Effect.setCycles (s : State) (n : Byte) : Effect [] [] s (s.setCycles n) :=
  .silent rfl rfl rfl (s.sameOutside_setCycles n)

theorem Effect.setPair (s : State) (p : StackPair) (v : Word) : Effect [] (stackPairParts p) s (s.setPair p v) :=
  .silent (by simp) (by simp) (by simp) (s.sameOutside_setPair p v)

theorem Effect.writeWord (s : State) (addr v : Word) :
    Effect [.write addr (lo8 v), .write (addr + 1) (hi8 v)] [] s (s.writeWord addr v) :=
  (Effect.writeByte s addr (lo8 v)).trans (.writeByte _ (addr + 1) (hi8 v))

/-- A push moves SP, and then stores the word (R230). -/
theorem Effect.pushWord (s : State) (v : Word) :
    Effect [.write (s.sp - 2) (lo8 v), .write (s.sp - 2 + 1) (hi8 v)] [.sp] s (s.pushWord v) :=
  (Effect.setRP s .sp (s.sp - 2)).trans (.writeWord _ (s.sp - 2) v)

/-- A pop reads two bytes, and then moves SP (R231). -/
theorem Effect.popWord (s : State) :
    Effect [.read s.sp (s.answer s.sp), .read (s.sp + 1) ((s.readByte s.sp).2.answer (s.sp + 1))] [.sp] s s.popWord.2 :=
  ((Effect.readByte s s.sp).trans (.readByte _ (s.sp + 1))).trans (.setRP _ .sp (s.sp + 2))

/-- The word a pop gives is made of the bytes answered. -/
theorem State.popWord_value (s : State) :
    s.popWord.1 = joinBytes ((s.readByte s.sp).2.answer (s.sp + 1)) (s.answer s.sp) := rfl

theorem State.storedWord_pushWord (s : State) (v : Word) : StoredWord s (s.pushWord v) (s.sp - 2) v :=
  State.storedWord_writeWord { s with sp := s.sp - 2 } (s.sp - 2) v

/-! ## 16-bit loads -/

/-- An instruction that loads a pair of table `rp` with the word of two bytes. -/
theorem Means.does_setRP {bytes : List Byte} {i : Instr} {ticks : Byte} {p : RegPair} {hi lo : State → Byte}
    (h : Means bytes i ticks fun s => s.setRP p (joinBytes (hi s) (lo s))) (s : State) :
    Does s bytes i ticks [] (pairParts p) fun t => (t.getRP p).toNat = 256 * (hi s).toNat + (lo s).toNat :=
  h.does (.setRP s p _) fun n => by
    rw [State.getRP_setCycles, State.getRP_setRP_same, toNat_joinBytes_high_first]

/-- Settles O39: each is one write of a pair; `LD SP,HL` is the write of SP with the bytes of HL. -/
theorem loadPairResult : Obligations.LoadPairResult := by
  intro s
  have hNN (p : RegPair) (lo hi : Byte) : Means [0x01 + 16 * pairIndex p, lo, hi] (.ldPairNN p (joinBytes hi lo)) 12 fun s =>
      s.setRP p (joinBytes hi lo) :=
    { encode_eq := withWord_joinBytes _ lo hi }
  exact ⟨fun p lo hi => (hNN p lo hi).does_setRP s, Means.does_setRP (p := .sp) (hi := State.h) (lo := State.l) {} s⟩

/-- Settles O40: it is one word write of SP. -/
theorem storeSPResult : Obligations.StoreSPResult := by
  intro s lo hi nn
  have hmeans : Means [0x08, lo, hi] (.ldAtNNSP nn) 20 fun s => s.writeWord nn s.sp :=
    { encode_eq := withWord_joinBytes 0x08 lo hi }
  exact hmeans.does (.writeWord s nn s.sp) fun _ => s.storedWord_writeWord nn s.sp

/-! ## PUSH and POP -/

/-- Settles O41: it is one push of the pair; of AF the byte stored first is the flag byte. -/
theorem pushResult : Obligations.PushResult := by
  intro s p v sp
  have hmeans : Means [0xC5 + 16 * stackPairIndex p] (.pushPair p) 16 fun s => s.pushWord (s.getPair p) := {}
  refine hmeans.does (.pushWord s v) fun _ => ⟨toNat_sub_two s.sp, s.storedWord_pushWord v, fun hp hf => ?_⟩
  have hlo : lo8 v = s.f := by
    subst hp
    exact lo8_joinBytes s.a s.f
  rw [hlo, ← toNat_and_0F, hf]
  rfl

/-- The shared shape of the pops (R237, R238): the popped word written to the pair `p`. -/
def State.popInto (s : State) (p : StackPair) : State := s.popWord.2.setPair p s.popWord.1

theorem Effect.popInto (s : State) (p : StackPair) :
    Effect [.read s.sp (s.answer s.sp), .read (s.sp + 1) ((s.readByte s.sp).2.answer (s.sp + 1))] (.sp :: stackPairParts p)
      s (s.popInto p) :=
  (Effect.popWord s).trans (.setPair _ p _)

theorem State.sp_popInto (s : State) (p : StackPair) : (s.popInto p).sp = s.sp + 2 := State.setPair_sp _ p _

theorem State.getPair_popInto (s : State) {p : StackPair} (hp : p ≠ .af) : (s.popInto p).getPair p = s.popWord.1 :=
  State.getPair_setPair_same _ hp _

theorem means_popPair {p : StackPair} (hp : p ≠ .af) :
    Means [0xC1 + 16 * stackPairIndex p] (.popPair p) 12 fun s => s.popInto p :=
  { wellFormed := bne_iff_ne.mpr hp }

/-- Settles O42: each is one pop into its pair; of AF the write drops the flag byte's low four bits. -/
theorem popResult : Obligations.PopResult := by
  intro s lo hi events
  have hAF : Means [0xF1] .popAF 12 fun s => s.popInto .af := {}
  refine ⟨hAF.does ((Effect.popInto s .af).mono (by decide)) fun _ => ⟨?_, ?_, toNat_add_two s.sp⟩,
    fun p hp => (means_popPair hp).does (.popInto s p) fun n => ⟨?_, ?_⟩⟩
  · exact hi8_joinBytes hi lo
  · change (lo8 (joinBytes hi lo) &&& 0xF0).toNat = _
    rw [lo8_joinBytes, toNat_and_F0]
  · rw [State.getPair_setCycles, s.getPair_popInto hp]
    exact toNat_joinBytes_high_first hi lo
  · exact (congrArg BitVec.toNat (s.sp_popInto p)).trans (toNat_add_two s.sp)

/-! ## A pop after a push -/

/-- A pop from memory gives the word of the bytes held. -/
theorem State.popWord_memory {s : State} (h0 : s.onMemory s.sp = true) (h1 : s.onMemory (s.sp + 1) = true) :
    s.popWord.1 = joinBytes (s.peek (s.sp + 1)) (s.peek s.sp) := by
  have hbus : (s.readByte s.sp).2.bus = s.bus := State.readByte_bus_memory h0
  have hm : (s.readByte s.sp).2.onMemory (s.sp + 1) = true := by rwa [State.onMemory, hbus]
  rw [State.popWord_value, State.answer_memory hm, State.answer_memory h0, State.peek, hbus]
  rfl

/-- A word stored in memory, read back from its two bytes. -/
theorem StoredWord.joinBytes_peek {s t : State} {addr v : Word} (h : StoredWord s t addr v) (h0 : s.onMemory addr = true)
    (h1 : s.onMemory (addr + 1) = true) : joinBytes (t.peek (addr + 1)) (t.peek addr) = v := by
  obtain ⟨hlo, hhi⟩ := h h0 h1
  apply BitVec.eq_of_toNat_eq
  rw [toNat_joinBytes, hlo, hhi, Nat.div_add_mod']

theorem State.onMemory_pushWord (s : State) (v x : Word) : (s.pushWord v).onMemory x = s.onMemory x := by
  rw [State.onMemory, (Effect.pushWord s v).bus, BusState.isDevice_after]
  rfl

/-- The law of R231: a pop after a push to memory gives back the word. -/
theorem State.popWord_pushWord {s : State} (h0 : s.onMemory (s.sp - 2) = true) (h1 : s.onMemory (s.sp - 2 + 1) = true)
    (v : Word) : (s.pushWord v).popWord.1 = v :=
  (State.popWord_memory ((s.onMemory_pushWord v _).trans h0) ((s.onMemory_pushWord v _).trans h1)).trans
    ((s.storedWord_pushWord v).joinBytes_peek h0 h1)

/-- The law of R231: a pop after a push gives back SP. -/
theorem State.sp_popWord_pushWord (s : State) (v : Word) : (s.pushWord v).popWord.2.sp = s.sp := BitVec.sub_add_cancel s.sp 2

/-- After a push and a pop SP is back, so only the bus and the pair popped into can differ. Between and after the two stands
the end of an instruction. -/
theorem State.sameOutside_popInto_pushWord (s : State) (v : Word) (q : StackPair) (n m : Byte) :
    SameOutside (.bus :: stackPairParts q) s ((((s.pushWord v).setCycles n).popInto q).setCycles m) := by
  intro part hpart
  by_cases hsp : part = .sp
  · subst hsp
    exact (State.sp_popInto _ q).trans (s.sp_popWord_pushWord v)
  · have heff := (((Effect.pushWord s v).trans (.setCycles _ n)).trans (.popInto _ q)).trans (.setCycles _ m)
    exact heff.frame part (by simpa [hsp] using hpart)

/-- Settles O43: a pop is its effect; and `PUSH` then `POP` is a push and a pop, each followed by the end of an instruction, which
neither the word nor SP depends on. -/
theorem popRestoresPush : Obligations.PopRestoresPush := by
  refine ⟨?_, fun s v h0 h1 => ⟨State.popWord_pushWord h0 h1 v, s.sp_popWord_pushWord v⟩, fun s p q hq h0 h1 => ?_⟩
  · intro s lo hi
    have heff := Effect.popWord s
    exact ⟨toNat_joinBytes_high_first hi lo, toNat_add_two s.sp, .of_bus heff.trace heff.bus, heff.frame.mono (by decide)⟩
  · refine ⟨_, _, rfl, (means_popPair hq).exec_eq _, ?_, ?_, s.sameOutside_popInto_pushWord _ q _ _⟩
    · rw [State.getPair_setCycles, State.getPair_popInto _ hq]
      exact State.popWord_pushWord h0 h1 (s.getPair p)
    · exact (State.sp_popInto _ q).trans (s.sp_popWord_pushWord (s.getPair p))

end Sys2Proof.Machine
end

section
/-! Jumps, calls, returns (46_control.md, and `RETI`, R270). A call and a return as a stack operation and then a write of PC; what a
conditional instruction does when its condition holds and when it does not; and from these each family of instructions. -/

namespace Sys2Proof.Machine

/-! ## The effects of control transfers -/

theorem Effect.setPC (s : State) (addr : Word) : Effect [] [.pc] s { s with pc := addr } where
  trace := (List.append_nil s.trace).symm
  bus := rfl
  ticks := rfl
  frame := s.sameOutside_fetched addr s.bus s.trace (by decide) (by decide) (.inl rfl) (.inl rfl)

theorem Effect.setIme (s : State) (b : Bool) : Effect [] [.ime] s { s with ime := b } := by
  refine .silent rfl rfl rfl fun p hp => ?_
  cases p with
  | reg r => cases r <;> rfl
  | ime => exact absurd hp (by decide)
  | debug => exact ⟨rfl, rfl, rfl⟩
  | env => exact ⟨rfl, rfl⟩
  | _ => rfl

theorem Effect.jumpRel (s : State) (e : Byte) : Effect [] [.pc] s (s.jumpRel e) := .setPC s _

/-- A call pushes PC, and then goes to the target (R252). -/
theorem Effect.callTo (s : State) (target : Word) :
    Effect [.write (s.sp - 2) (lo8 s.pc), .write (s.sp - 2 + 1) (hi8 s.pc)] [.pc, .sp] s (s.callTo target) :=
  ((Effect.pushWord s s.pc).trans (.setPC _ target)).mono (by decide)

/-- A return pops, and then goes to the word popped (R254). -/
theorem Effect.popPC (s : State) :
    Effect [.read s.sp (s.answer s.sp), .read (s.sp + 1) ((s.readByte s.sp).2.answer (s.sp + 1))] [.pc, .sp] s s.popPC :=
  ((Effect.popWord s).trans (.setPC _ _)).mono (by decide)

/-- After a relative jump, on integers: the offset is signed, as in `addsp` (R249). -/
theorem State.toNat_pc_jumpRel (s : State) (e : Byte) :
    ((s.jumpRel e).pc.toNat : Int) = ((s.pc.toNat : Int) + e.toInt) % 65536 := (addsp_spec s.pc e).1

/-! ## Unconditional jumps -/

/-- Settles O44: each is one write of PC. -/
theorem jumpResult : Obligations.JumpResult := by
  intro s
  have hNN (lo hi : Byte) : Means [0xC3, lo, hi] (.jpNN (joinBytes hi lo)) 16 fun s => { s with pc := joinBytes hi lo } :=
    { encode_eq := withWord_joinBytes 0xC3 lo hi }
  have hHL : Means [0xE9] .jpHL 4 fun s => { s with pc := s.hl } := {}
  have hE (e : Byte) : Means [0x18, e] (.jrE e) 12 fun s => s.jumpRel e := {}
  exact ⟨fun lo hi => (hNN lo hi).does (.setPC s _) fun _ => toNat_joinBytes_high_first hi lo,
    hHL.does (.setPC s _) fun _ => toNat_joinBytes_high_first s.h s.l,
    fun e => (hE e).does (.jumpRel s e) fun _ => s.toNat_pc_jumpRel e⟩

/-! ## Calls and returns -/

/-- An instruction that calls `target`. -/
theorem Means.does_callTo {bytes : List Byte} {i : Instr} {ticks : Byte} {target : Word} {addr : Nat}
    (h : Means bytes i ticks fun s => s.callTo target) (htarget : target.toNat = addr) (s : State) :
    Does s bytes i ticks [.write (s.sp - 2) (lo8 s.pc), .write (s.sp - 2 + 1) (hi8 s.pc)] [.pc, .sp] fun t =>
      t.pc.toNat = addr ∧ t.sp = s.sp - 2 ∧ StoredWord s t (s.sp - 2) s.pc :=
  h.does (.callTo s target) fun _ => ⟨htarget, rfl, s.storedWord_pushWord s.pc⟩

theorem toNat_rstTarget (y : BitVec 3) : (rstTarget y).toNat = 8 * y.toNat := by
  revert y
  decide

/-- Settles O46: both are a call, and differ in the target. -/
theorem callRstResult : Obligations.CallRstResult := by
  intro s
  have hcall (lo hi : Byte) : Means [0xCD, lo, hi] (.callNN (joinBytes hi lo)) 24 fun s => s.callTo (joinBytes hi lo) :=
    { encode_eq := withWord_joinBytes 0xCD lo hi }
  exact ⟨fun lo hi => (hcall lo hi).does_callTo (toNat_joinBytes_high_first hi lo) s,
    fun y => Means.does_callTo {} (toNat_rstTarget y) s⟩

/-- Settles O47: both are a return, which `RETI` ends with a write of IME. -/
theorem returnResult : Obligations.ReturnResult := by
  intro s lo hi events returns
  have hret : Means [0xC9] .ret 16 State.popPC := {}
  have hreti : Means [0xD9] .reti 16 State.returnFromInterrupt := {}
  have hpc : (joinBytes hi lo).toNat = 256 * hi.toNat + lo.toNat := toNat_joinBytes_high_first hi lo
  exact ⟨hret.does (.popPC s) fun _ => ⟨hpc, toNat_add_two s.sp⟩,
    hreti.does ((Effect.popPC s).trans (.setIme _ true)) fun _ => ⟨⟨hpc, toNat_add_two s.sp⟩, rfl⟩⟩

/-! ## Conditions -/

/-- The conditions, read off the flag byte as a number (R14, R245). -/
theorem State.cond_eq_condHolds (s : State) (cc : Cond) : s.cond cc = condHolds s.f cc := by
  cases cc with
  | nz => exact not_testBit8 7 s.f
  | z => exact Nat.testBit_eq_decide_div_mod_eq
  | nc => exact not_testBit8 4 s.f
  | c => exact Nat.testBit_eq_decide_div_mod_eq

/-- The instruction `i`, on condition `cc`, has the opcode `base + 8 * cc`, which for no condition is 0xCB, these operand bytes
and these two default ticks; it is the update `eff` where the condition holds, nothing where it does not, and then the end of an
instruction. -/
structure MeansIf (cc : Cond) (base : Byte) (operands : List Byte) (i : Instr) (taken notTaken : Byte) (eff : State → State) :
    Prop where
  wellFormed : WellFormed i = true := by rfl
  encode_eq : encode i = (base + 8 * condIndex cc) :: operands := by rfl
  primary : ∀ cc', base + 8 * condIndex cc' ≠ 0xCB := by rintro ⟨⟩ <;> decide
  ticks_eq : defaultTicks i = takenOrNot taken notTaken := by rfl
  exec_eq : ∀ s, exec i s = if s.cond cc then (eff s).finish i else s.finishNotTaken i := by exact fun _ => rfl

/-- An effect is all that `DoesIn` asks of the run of an instruction. -/
theorem Effect.doesIn {s t : State} {bytes : List Byte} {i : Instr} {events : List Event} {changes : List Part}
    {P : State → Prop} (h : Effect events changes s t) (hbytes : DecodesTo bytes i) (hexec : exec i s = .next t) (hP : P t) :
    DoesIn s bytes i t.cycles events changes P :=
  ⟨hbytes, t, hexec, rfl, .of_bus h.trace h.bus, hP, h.frame⟩

/-- The end of an instruction adds nothing to an effect. -/
theorem Effect.setCycles_right {s t : State} {events : List Event} {changes : List Part} (h : Effect events changes s t)
    (n : Byte) : Effect events changes s (t.setCycles n) := by
  simpa only [List.append_nil] using h.trans (.setCycles t n)

section

variable {cc : Cond} {base : Byte} {operands : List Byte} {i : Instr} {taken notTaken : Byte} {eff : State → State} {s : State}
  {events : List Event} {changes : List Part} {P : State → Prop}

theorem MeansIf.decodesTo (h : MeansIf cc base operands i taken notTaken eff) :
    DecodesTo ((base + 8 * condIndex cc) :: operands) i := h.encode_eq ▸ decodesTo_encode h.wellFormed

theorem MeansIf.doesIn_of_holds (h : MeansIf cc base operands i taken notTaken eff) (hcond : condHolds s.f cc = true)
    (heff : Effect events changes s (eff s)) (hP : ∀ n, P ((eff s).setCycles n)) :
    DoesIn s ((base + 8 * condIndex cc) :: operands) i (s.ticksAt [base + 8 * condIndex cc] true taken) events changes P := by
  have hexec := h.exec_eq s
  rw [s.cond_eq_condHolds, hcond, if_pos rfl, State.finish, h.encode_eq, h.ticks_eq, State.ticksAt_primary _ (h.primary cc),
    State.ticksAt_congr heff.ticks] at hexec
  exact (heff.setCycles_right _).doesIn h.decodesTo hexec (hP _)

theorem MeansIf.doesIn_of_not_holds (h : MeansIf cc base operands i taken notTaken eff) (hcond : condHolds s.f cc = false)
    (hP : ∀ n, P (s.setCycles n)) :
    DoesIn s ((base + 8 * condIndex cc) :: operands) i (s.ticksAt [base + 8 * condIndex cc] false notTaken) [] changes P := by
  have hexec := h.exec_eq s
  rw [s.cond_eq_condHolds, hcond, if_neg Bool.false_ne_true, State.finishNotTaken, h.encode_eq, h.ticks_eq,
    State.ticksAt_primary _ (h.primary cc)] at hexec
  exact ((Effect.setCycles s _).mono (List.nil_subset _)).doesIn h.decodesTo hexec (hP _)

end

/-- Settles O45: taken, each is the effect of its unconditional form; not taken, it is the end of an instruction and no more. -/
theorem conditionalTransferResult : Obligations.ConditionalTransferResult := by
  intro s cc
  have hjp (lo hi : Byte) : MeansIf cc 0xC2 [lo, hi] (.jpCond cc (joinBytes hi lo)) 16 12 fun s =>
      { s with pc := joinBytes hi lo } := { encode_eq := withWord_joinBytes _ lo hi }
  have hjr (e : Byte) : MeansIf cc 0x20 [e] (.jrCond cc e) 12 8 fun s => s.jumpRel e := {}
  have hcall (lo hi : Byte) : MeansIf cc 0xC4 [lo, hi] (.callCond cc (joinBytes hi lo)) 24 12 fun s =>
      s.callTo (joinBytes hi lo) := { encode_eq := withWord_joinBytes _ lo hi }
  have hret : MeansIf cc 0xC0 [] (.retCond cc) 20 8 State.popPC := {}
  cases hcond : condHolds s.f cc with
  | true =>
    exact ⟨fun lo hi => (hjp lo hi).doesIn_of_holds hcond (.setPC s _) fun _ => rfl,
      fun e => (hjr e).doesIn_of_holds hcond (.jumpRel s e) fun _ => s.toNat_pc_jumpRel e,
      fun lo hi => (hcall lo hi).doesIn_of_holds hcond (.callTo s _) fun _ => ⟨rfl, rfl, s.storedWord_pushWord s.pc⟩,
      hret.doesIn_of_holds hcond (.popPC s) fun _ => ⟨rfl, rfl⟩⟩
  | false =>
    exact ⟨fun lo hi => (hjp lo hi).doesIn_of_not_holds hcond fun _ => rfl,
      fun e => (hjr e).doesIn_of_not_holds hcond fun _ => rfl,
      fun lo hi => (hcall lo hi).doesIn_of_not_holds hcond fun _ => ⟨rfl, rfl⟩,
      hret.doesIn_of_not_holds hcond fun _ => ⟨rfl, rfl⟩⟩

end Sys2Proof.Machine
end

section
/-! The system instructions (47_system.md) and `PREFIX CB` (R271). What a fetch changes is an effect, which serves the fetch of the
byte after `0xCB` here, and the rounds of `EI` and of an illegal opcode below. -/

namespace Sys2Proof.Machine

/-! ## The effect of a fetch -/

/-- Byte reads at the listed addresses, one after another, as events. -/
def State.readEvents (s : State) : List Word → List Event
  | [] => []
  | addr :: rest => .read addr (s.answer addr) :: (s.readByte addr).2.readEvents rest

theorem Effect.refl (s : State) : Effect [] [] s s := .setCycles s s.cycles

theorem Effect.readBytes (addrs : List Word) : ∀ s : State, Effect (s.readEvents addrs) [] s (s.readBytes addrs).2 := by
  induction addrs with
  | nil => exact Effect.refl
  | cons addr addrs ih => exact fun s => (Effect.readByte s addr).trans (ih _)

/-- The fetch of the instruction whose bytes are answered at the fetched addresses, before the bytes `rest` (R70, R72). -/
theorem State.fetchInstr_of_bytes {s : State} {i : Instr} {bytes rest : List Byte} (hi : DecodesTo bytes i)
    (hbytes : (s.readBytes s.fetchAddrs).1 = bytes ++ rest) :
    ∃ t, s.fetchInstr = (i, t) ∧ t.pc = s.operandAddr + BitVec.ofNat 16 (2 - rest.length) ∧
      Effect (s.readEvents (s.fetchAddrs.take (3 - rest.length))) [.pc, .haltBug, .debug] s t := by
  have hread := Effect.readBytes (s.fetchAddrs.take (3 - rest.length)) s
  refine ⟨_, State.fetchInstr_of_decode (hbytes ▸ hi rest), rfl, hread.trace, hread.bus, rfl, ?_⟩
  exact s.sameOutside_fetched _ _ _ (by decide) (by decide) (.inr (by decide)) (.inr (by decide))

/-- The fetch of a one-byte instruction is one read. -/
theorem State.fetchInstr_of_one_byte {s : State} {i : Instr} {op : Byte} (hi : DecodesTo [op] i) (hop : s.answer s.pc = op) :
    ∃ t, s.fetchInstr = (i, t) ∧ t.pc = s.operandAddr ∧ Effect [.read s.pc op] [.pc, .haltBug, .debug] s t := by
  have hbytes : (s.readBytes s.fetchAddrs).1 =
      [op] ++ ((s.readByte s.pc).2.readBytes [s.operandAddr, s.operandAddr + 1]).1 := hop ▸ rfl
  have hevents : s.readEvents [s.pc] = [.read s.pc op] := hop ▸ rfl
  obtain ⟨t, ht, hpc, heff⟩ := State.fetchInstr_of_bytes hi hbytes
  exact ⟨t, ht, hpc.trans (BitVec.add_zero _), hevents ▸ heff⟩

/-! ## PREFIX CB -/

/-- An instruction that comes to the end of an instruction, on whatever state, returns the ticks of its table entry, or its
default (R337). -/
theorem cycles_of_finish {i : Instr} {s u : State} (h : exec i s = u.finish i) :
    ∃ t, exec i s = .next t ∧ t.cycles = s.ticksAt (encode i) true (defaultTicks i).taken := by
  obtain ⟨-, -, -, -, -, hticks⟩ := onlyListedInstructionsWriteControl i s _ h
  exact ⟨_, h, State.ticksAt_congr hticks _ _ _⟩

/-- Every entry of the secondary table comes to the end of an instruction. -/
theorem exec_decodeCB_eq_finish (cb : Byte) (s : State) : ∃ u, exec (decodeCB cb) s = State.finish u (decodeCB cb) := by
  have hx : ∀ x : BitVec 2, x = 0 ∨ x = 1 ∨ x = 2 ∨ x = 3 := by decide
  unfold decodeCB
  generalize regOfIndex (fieldZ cb) = operand, fieldY cb = y
  rcases hx (fieldX cb) with h | h | h | h <;> rw [h]
  · cases operand <;> cases y using field_cases <;> exact ⟨_, rfl⟩
  all_goals cases operand <;> exact ⟨_, rfl⟩

theorem defaultTicks_decodeCB (cb : Byte) : (defaultTicks (decodeCB cb)).taken ∈ ([8, 12, 16] : List Byte) := by
  revert cb
  decide +kernel

/-- Settles O33: the meaning of `PREFIX CB` is that of the entry, which comes to the end of an instruction; and the fetch reads
`0xCB` and the entry's byte. -/
theorem prefixSelectsSecondaryEntry : Obligations.PrefixSelectsSecondaryEntry := by
  refine ⟨fun s cb => ?_, decodesTo_secondary (by decide), fun s hrun hop => ?_⟩
  · obtain ⟨u, hu⟩ := exec_decodeCB_eq_finish cb s
    obtain ⟨t, ht, hcycles⟩ := cycles_of_finish hu
    rw [encode_decodeCB] at hcycles
    exact ⟨decodeCB cb, t, decodesTo_secondary rfl, ht, (exec_prefixCB cb s).trans ht, _, defaultTicks_decodeCB cb, hcycles⟩
  · intro next cb
    have hbytes : (s.readBytes s.fetchAddrs).1 =
        [0xCB, cb] ++ [((s.readByte s.pc).2.readByte next).2.answer (next + 1)] := hop ▸ rfl
    have hi : DecodesTo [0xCB, cb] (decodeCB cb) := decodesTo_secondary rfl
    obtain ⟨t, ht, hpc, heff⟩ := State.fetchInstr_of_bytes hi hbytes
    have hevents : s.readEvents [s.pc, next] = [.read s.pc 0xCB, .read next cb] := hop ▸ rfl
    exact ⟨_, t, by rw [State.prepare_running hrun, ht], hi, hpc, hevents ▸ .of_bus heff.trace heff.bus,
      heff.frame.mono (by decide)⟩

/-! ## NOP, STOP, DI, EI, HALT and the illegal opcodes -/

/-- The frame of a halt: `run_state` and the HALT bug, where they are listed or unchanged. -/
theorem State.sameOutside_halting (s : State) {ps : List Part} {run : RunState} {bug : Bool}
    (hrun : run = s.runState ∨ .runState ∈ ps) (hbug : bug = s.haltBug ∨ .haltBug ∈ ps) :
    SameOutside ps s { s with runState := run, haltBug := bug } := by
  intro p hp
  cases p with
  | reg r => cases r <;> rfl
  | runState => exact hrun.resolve_right hp
  | haltBug => exact hbug.resolve_right hp
  | debug => exact ⟨rfl, rfl, rfl⟩
  | env => exact ⟨rfl, rfl⟩
  | _ => rfl

theorem Effect.setRunState (s : State) (run : RunState) : Effect [] [.runState] s { s with runState := run } :=
  .silent rfl rfl rfl (s.sameOutside_halting (.inr (by decide)) (.inl rfl))

theorem Effect.setHaltBug (s : State) (bug : Bool) : Effect [] [.haltBug] s { s with haltBug := bug } :=
  .silent rfl rfl rfl (s.sameOutside_halting (.inl rfl) (.inr (by decide)))

theorem Effect.logIllegal (s : State) (op : Byte) : Effect [.logIllegal op] [] s (s.note (.logIllegal op)) where
  trace := rfl
  bus := rfl
  ticks := rfl
  frame := s.sameOutside_bus_trace _ _

/-- An illegal opcode logs its event, and returns 0 ticks (R272). -/
theorem exec_illegal_effect (s : State) (op : Byte) :
    ∃ t, exec (.illegal op) s = .next t ∧ t.cycles = 0 ∧ t.pc = s.pc ∧ Effect [.logIllegal op] [] s t :=
  ⟨_, rfl, rfl, rfl, (Effect.logIllegal s op).setCycles_right cycIllegal⟩

/-- Settles O48: each of the four is at most one write to the control state; an illegal byte is its log event. -/
theorem systemInstructionResult : Obligations.SystemInstructionResult := by
  intro s
  have hnop : Means [0x00] .nop 4 id := {}
  have hstop : Means [0x10] .stop 4 fun s => { s with runState := .halted } := {}
  have hdi : Means [0xF3] .di 4 fun s => { s with ime := false } := {}
  have hei : Means [0xFB] .ei 4 fun s => { s with ime := true } := {}
  refine ⟨hnop.does (.refl s) fun _ => trivial, hstop.does (.setRunState s .halted) fun _ => ⟨rfl, rfl⟩,
    hdi.does (.setIme s false) fun _ => rfl, hei.does (.setIme s true) fun _ => rfl, fun op hop => ?_⟩
  obtain ⟨t, ht, hcycles, -, heff⟩ := exec_illegal_effect s op
  exact hcycles ▸ heff.doesIn (decodesTo_illegal (List.contains_iff_mem.mpr hop)) ht trivial

/-- Settles O49: `HALT` is its control effect, whose condition is read off the bytes of IE and IF. -/
theorem haltResult : Obligations.HaltResult := by
  intro s pending
  have hmeans : Means [0x76] .halt 4 (controlEffect .halt) := { exec_eq := exec_halt }
  have hpending : s.interruptPending = pending := Bool.eq_iff_iff.mpr (s.interruptPending_iff.trans bne_iff_ne.symm)
  have heffect := controlEffect_halt s
  rw [hpending] at heffect
  split
  · next h =>
    rw [if_pos h] at heffect
    exact hmeans.does (heffect ▸ .setHaltBug s true) fun _ => by rw [heffect]; rfl
  · next h =>
    rw [if_neg h] at heffect
    exact hmeans.does (heffect ▸ .setRunState s .halted) fun _ => by rw [heffect]; rfl

end Sys2Proof.Machine
end

section
/-! The dispatcher and the host's round (60_exceptions.md, 70_reset_and_hazards.md): waking without service, the return from an
interrupt just entered, totality, rounds in which nothing happens, the debug hooks, and the round of an illegal opcode. -/

namespace Sys2Proof.Machine

/-! ## Waking -/

/-- Settles O51: with IME off, or nothing pending, a call is a wake, which acts where a source is pending. -/
theorem wakeWithoutService : Obligations.WakeWithoutService := by
  intro s _
  refine ⟨fun hm hime => ?_, fun hm => ?_⟩
  · rw [State.handleInterrupt_of_no_service (.inl hime), State.wake_eq, if_pos (s.interruptPending_iff.mpr hm)]
  · have hp : s.interruptPending = false := Bool.eq_false_iff.mpr fun h => s.interruptPending_iff.mp h hm
    rw [State.handleInterrupt_of_no_service (.inr (s.pending_eq_zero_iff.mpr hm)), State.wake_of_not_pending hp]

/-! ## Entry and return -/

theorem Effect.onMemory_eq {events : List Event} {changes : List Part} {s t : State} (h : Effect events changes s t)
    (addr : Word) : t.onMemory addr = s.onMemory addr := by
  rw [State.onMemory, h.bus, BusState.isDevice_after]
  rfl

theorem Effect.wake (s : State) : Effect [] [.runState] s s.wake := by
  rw [State.wake_eq]
  exact .setRunState s _

theorem Effect.ackInterrupt (s : State) (mask : BitVec 5) : Effect [.ack mask] [] s (s.ackInterrupt mask) where
  trace := rfl
  bus := rfl
  ticks := rfl
  frame := s.sameOutside_ackInterrupt mask

/-- An entry clears IME, acknowledges the request, pushes PC and goes to the vector (R285, R286). -/
theorem Effect.enterInterrupt (s : State) (src : Source) :
    Effect [.ack src.mask, .write (s.sp - 2) (lo8 s.pc), .write (s.sp - 2 + 1) (hi8 s.pc)] [.ime, .sp, .pc] s
      (s.enterInterrupt src) :=
  (((Effect.setIme s false).trans (.ackInterrupt _ src.mask)).trans (.pushWord _ s.pc)).trans (.setPC _ src.vector)

theorem State.storedWord_enterInterrupt (s : State) (src : Source) :
    StoredWord s (s.enterInterrupt src) (s.sp - 2) s.pc := by
  rw [State.enterInterrupt_eq]
  exact .of_bus (s.bus.ack src.mask) (fun _ => rfl) rfl

theorem State.sp_enterInterrupt (s : State) (src : Source) : (s.enterInterrupt src).sp = s.sp - 2 := by
  rw [State.enterInterrupt_eq]

/-- After an entry with the stack in memory, a pop gives the PC of before. -/
theorem State.popWord_enterInterrupt {s : State} (h0 : s.onMemory (s.sp - 2) = true)
    (h1 : s.onMemory (s.sp - 2 + 1) = true) (src : Source) : (s.enterInterrupt src).popWord.1 = s.pc := by
  have hmem := (Effect.enterInterrupt s src).onMemory_eq
  rw [State.popWord_memory (by rwa [s.sp_enterInterrupt, hmem]) (by rwa [s.sp_enterInterrupt, hmem]), s.sp_enterInterrupt]
  exact (s.storedWord_enterInterrupt src).joinBytes_peek h0 h1

/-- Settles O52: an entry is a push of PC and a return is a pop to PC; IME was on, since the call serviced; and no other part
than the two listed is changed by either. -/
theorem retiUndoesEntry : Obligations.RetiUndoesEntry := by
  intro s t h h0 h1
  rcases State.handleInterrupt_cases s with ⟨e, -⟩ | ⟨src, e, hime, -⟩
  · exact Bool.noConfusion (congrArg Prod.fst (e.symm.trans h))
  obtain rfl : s.wake.enterInterrupt src = t := congrArg Prod.snd (e.symm.trans h)
  have hwake := Effect.wake s
  have hspWake : s.wake.sp = s.sp := hwake.frame .sp (by decide)
  have hpc : (s.wake.enterInterrupt src).popWord.1 = s.pc :=
    (State.popWord_enterInterrupt (by rwa [hspWake, hwake.onMemory_eq]) (by rwa [hspWake, hwake.onMemory_eq]) src).trans
      (hwake.frame .pc (by decide))
  have hsp : (s.wake.enterInterrupt src).sp + 2 = s.sp := by
    rw [State.sp_enterInterrupt, hspWake]
    exact BitVec.sub_add_cancel s.sp 2
  refine ⟨_, rfl, hpc, hsp, rfl, fun p hp => ?_⟩
  have heff := (((hwake.trans (.enterInterrupt _ src)).trans (.popPC _)).trans (.setIme _ true)).setCycles_right
  cases p with
  | pc => exact hpc
  | sp => exact hsp
  | ime => exact hime.symm
  | runState | bus => exact absurd hp (by decide)
  | _ => exact (heff _).frame _ (by simp)

/-! ## Totality -/

theorem step_total (s : State) : ∃ t, step s = .next t := by
  obtain ⟨t, ht⟩ := cpuStep_total s.beginRound
  exact ⟨_, step_of_cpuStep ht⟩

/-- Settles O59: by induction on the rounds, each of which ends in a next state. -/
theorem machineIsTotal : Obligations.MachineIsTotal := by
  intro s k
  induction k generalizing s with
  | zero => exact ⟨s, rfl⟩
  | succ k ih =>
    obtain ⟨t, ht⟩ := step_total s
    rw [run_succ_of_step ht]
    exact ih t

/-! ## A round in which nothing happens -/

/-- The pending set is read off the bus. -/
theorem State.pending_congr {s t : State} (h : t.bus = s.bus) :
    t.interruptEnable &&& t.interruptFlag = s.interruptEnable &&& s.interruptFlag := by
  simp only [State.interruptEnable, State.interruptFlag, h]

theorem State.handleInterrupt_of_not_pending {s : State} (h : s.interruptEnable &&& s.interruptFlag = 0) :
    s.handleInterrupt = (false, s) := by
  have hp : s.interruptPending = false := bne_eq_false_iff_eq.mpr h
  rw [State.handleInterrupt_of_no_service (.inr h), State.wake_of_not_pending hp]

/-- The state with outputs given and `n` ticks on the clock. -/
def State.idled (s : State) (n : Nat) (cycles : Byte) (trace : List Event) : State :=
  { s with cycles := cycles, trace := trace, clock := s.clock + n }

theorem State.idled_idled (s : State) (m n : Nat) (cycles cycles' : Byte) (trace trace' : List Event) :
    (s.idled m cycles trace).idled n cycles' trace' = s.idled (m + n) cycles' trace' := by
  simp only [State.idled, Nat.add_assoc]

/-- A quiet round of a halted core with nothing pending is 4 ticks and no more (R291, R296). -/
theorem step_of_halted_quiet {s : State} (hrun : s.runState = .halted) (hq : s.inputs = [])
    (hp : s.interruptEnable &&& s.interruptFlag = 0) : step s = .next (s.idled 4 4 []) := by
  have hbegin : s.beginRound = { s with trace := [] } := by rw [State.beginRound, State.envGap_of_quiet hq]
  have hidle := cpuStep_halted (s := s.beginRound) (by rw [hbegin]; exact hrun)
  rw [step_of_cpuStep hidle, hbegin]
  exact congrArg _ (State.hostTicks_of_idle 4 hq (State.handleInterrupt_of_not_pending hp))

/-- Any number of such rounds changes the outputs and the clock alone. -/
theorem run_of_halted_quiet (k : Nat) : ∀ {s : State}, s.runState = .halted → s.inputs = [] →
    s.interruptEnable &&& s.interruptFlag = 0 → ∃ cycles trace, core.run k s = .next (s.idled (4 * k) cycles trace) := by
  induction k with
  | zero => exact fun {s} _ _ _ => ⟨s.cycles, s.trace, rfl⟩
  | succ k ih =>
    intro s hrun hq hp
    obtain ⟨cycles, trace, h⟩ := ih (s := s.idled 4 4 []) hrun hq ((State.pending_congr rfl).trans hp)
    refine ⟨cycles, trace, ?_⟩
    rw [run_succ_of_step (step_of_halted_quiet hrun hq hp), h, State.idled_idled, Nat.mul_succ, Nat.add_comm 4]

/-- Settles O57: the rounds change the outputs and the clock alone. -/
theorem haltedCoreStaysHalted : Obligations.HaltedCoreStaysHalted := by
  intro k s hrun hq hp
  obtain ⟨cycles, trace, h⟩ := run_of_halted_quiet k hrun hq (bne_eq_false_iff_eq.mp hp)
  exact ⟨_, h, hrun, rfl, rfl, rfl, rfl, rfl, rfl, fun r => by cases r <;> rfl⟩

/-! ## The debug hooks -/

/-- Settles O58: the fetch of a running core is given by one equation, and finds the same instruction whatever the debug fields
hold. -/
theorem debugHooksSetPaused : Obligations.DebugHooksSetPaused := by
  intro s
  refine ⟨fun hrun => ?_, fun hrun => ?_, rfl, beq_iff_eq, fun _ => rfl, fun _ => rfl⟩
  · rw [State.prepare_halted hrun]
    rfl
  · have hwithout : s.withoutDebug.prepare.1 = some s.fetchInstr.1 := by
      rw [State.prepare_running (s := s.withoutDebug) hrun]
      exact congrArg some (s.fetchInstr_setDebug none false false)
    rw [hwithout, State.prepare_running hrun, State.fetchInstr_eq]
    dsimp only
    rw [State.readBytes_eq]
    exact ⟨rfl, rfl, rfl, rfl⟩

/-! ## An illegal opcode -/

/-- Settles O56: the step is a fetch and a log event, and of 0 ticks the host makes no dispatcher call. -/
theorem illegalTakesNoTime : Obligations.IllegalTakesNoTime := by
  intro s c hrun hop
  obtain ⟨u, hu, hpc, hfetch⟩ := State.fetchInstr_of_one_byte (decodesTo_illegal (List.contains_iff_mem.mpr hop)) rfl
  obtain ⟨t, ht, hcycles, htpc, hlog⟩ := exec_illegal_effect u (c.answer c.pc)
  have heff := hfetch.trans hlog
  have hstep : cpuStep c = .next t := by rw [cpuStep_running hrun, hu, ht]
  refine ⟨_, step_of_cpuStep hstep, ?_⟩
  rw [hcycles]
  exact ⟨hcycles, .of_bus heff.trace heff.bus, htpc.trans hpc, heff.frame.mono (by decide)⟩

end Sys2Proof.Machine
end

section
/-! When an interrupt is taken (R326, R328): at the tick its request comes up, and in the round of `EI` itself. Both rounds come down
to a quiet one whose first dispatcher call services. -/

namespace Sys2Proof.Machine

/-! ## The host's loop up to a request -/

theorem State.hostTicks_add (m n : Nat) : ∀ s : State, s.hostTicks (m + n) = (s.hostTicks m).hostTicks n := by
  induction m with
  | zero => exact fun s => by rw [Nat.zero_add]; rfl
  | succ m ih => exact fun s => by rw [Nat.succ_add]; exact ih s.hostTick

/-- The state with the environment's schedule given. -/
def State.withInputs (s : State) (inputs : List (List EnvAction)) : State := { s with inputs := inputs }

theorem State.envGap_cons {s : State} {acts : List EnvAction} {rest : List (List EnvAction)} (h : s.inputs = acts :: rest) :
    s.envGap = (s.withInputs rest).applyEnvs acts := by
  simp only [State.envGap, State.withInputs, h]

/-- With nothing pending, a tick in which the environment is listed to do nothing only counts. -/
theorem State.hostTick_of_empty_gap {s : State} {rest : List (List EnvAction)}
    (hp : s.interruptEnable &&& s.interruptFlag = 0) (h : s.inputs = [] :: rest) :
    s.hostTick = (s.charge 1).withInputs rest := by
  have hgap : (s.charge 1).envGap = (s.charge 1).withInputs rest := State.envGap_cons (s := s.charge 1) h
  have hidle := State.handleInterrupt_of_not_pending (s := (s.charge 1).withInputs rest) ((State.pending_congr rfl).trans hp)
  rw [State.hostTick, hgap, hidle]
  rfl

/-- So do any number of such ticks. -/
theorem State.hostTicks_of_empty_gaps {rest : List (List EnvAction)} (k : Nat) : ∀ {s : State},
    s.interruptEnable &&& s.interruptFlag = 0 → s.inputs = List.replicate k [] ++ rest →
    s.hostTicks k = (s.charge k).withInputs rest := by
  induction k with
  | zero =>
    rintro s - rfl
    rfl
  | succ k ih =>
    intro s hp h
    rw [List.replicate_succ, List.cons_append] at h
    have hnext := ih (s := (s.charge 1).withInputs (List.replicate k [] ++ rest)) ((State.pending_congr rfl).trans hp) rfl
    calc s.hostTicks (k + 1)
      _ = ((s.charge 1).withInputs (List.replicate k [] ++ rest)).hostTicks k :=
        congrArg (State.hostTicks · k) (State.hostTick_of_empty_gap hp h)
      _ = ((s.charge 1).charge k).withInputs rest := hnext
      _ = (s.charge (k + 1)).withInputs rest := by rw [State.charge_charge, Nat.add_comm]

/-! ## A request -/

theorem highestSource_mask (src : Source) : highestSource src.mask = some src := by cases src <;> rfl

theorem Source.and_mask {src : Source} {m : BitVec 5} (h : m.getLsbD src.bit = true) : m &&& src.mask = src.mask := by
  revert m
  cases src <;> decide

theorem State.interruptEnable_request (s : State) (src : Source) :
    (s.applyEnv (.request src)).interruptEnable = s.interruptEnable := by
  have hie : (s.applyEnv (.request src)).peek ieAddr = s.peek ieAddr := (s.peek_poke _ _ _).trans (if_neg (by decide))
  exact congrArg (BitVec.extractLsb' 0 5) hie

/-- A request sets its bit of IF (R281). -/
theorem State.interruptFlag_request (s : State) (src : Source) :
    (s.applyEnv (.request src)).interruptFlag = s.interruptFlag ||| src.mask := by
  have hif : (s.applyEnv (.request src)).peek ifAddr = s.peek ifAddr ||| src.mask.setWidth 8 := s.peek_poke_same _ _
  calc (s.applyEnv (.request src)).interruptFlag
    _ = (s.peek ifAddr ||| src.mask.setWidth 8).extractLsb' 0 5 := congrArg (BitVec.extractLsb' 0 5) hif
    _ = s.interruptFlag ||| src.mask := by
      rw [BitVec.extractLsb'_or]
      congr 1
      cases src <;> rfl

/-- The state with the request of `src` made, and nothing more listed for the environment to do. -/
def State.requested (s : State) (src : Source) : State := (s.withInputs []).applyEnv (.request src)

/-- Where nothing was pending, an enabled source that makes its request is the only one pending. -/
theorem State.highestSource_requested {s : State} {src : Source} (hp : s.interruptEnable &&& s.interruptFlag = 0)
    (he : s.interruptEnable.getLsbD src.bit = true) :
    highestSource ((s.requested src).interruptEnable &&& (s.requested src).interruptFlag) = some src := by
  have hp' : (s.withInputs []).interruptEnable &&& (s.withInputs []).interruptFlag = 0 := (State.pending_congr rfl).trans hp
  have hmask : (s.withInputs []).interruptEnable &&& src.mask = src.mask := Source.and_mask he
  rw [State.requested, State.interruptEnable_request, State.interruptFlag_request, BitVec.and_or_distrib_left, hp', hmask]
  exact (congrArg highestSource BitVec.zero_or).trans (highestSource_mask src)

/-- The tick of a request after which nothing is listed is that of a quiet round on the state with the request made. -/
theorem State.hostTick_of_request {s : State} {src : Source} (h : s.inputs = [[.request src]]) :
    s.hostTick = (s.requested src).hostTick := by
  have hgap : (s.charge 1).envGap = ((s.requested src).charge 1).envGap := State.envGap_cons (s := s.charge 1) h
  rw [State.hostTick, State.hostTick, hgap]

/-- A quiet round whose first dispatcher call services: the entry, and the clock charged (R8, R335). -/
theorem State.hostTicks_of_service {s : State} {src : Source} (hq : s.inputs = []) (hime : s.ime = true)
    (hs : highestSource (s.interruptEnable &&& s.interruptFlag) = some src) (n : Nat) :
    s.hostTicks (n + 1) = (s.wake.enterInterrupt src).charge (n + 1 + 20) := by
  rw [State.hostTicks_of_quiet hq, State.handleInterrupt_of_service hime hs]
  rfl

/-- Settles O54: the ticks before the request only count, and the rest of the round is a quiet one with the source pending. -/
theorem interruptServicedAtRequestTick : Obligations.InterruptServicedAtRequestTick := by
  intro s src k n hk hime hp he hinputs t
  obtain ⟨m, rfl⟩ := Nat.exists_eq_add_of_lt hk
  have hs := State.highestSource_requested (s := s.charge k) hp he
  have ht : t = (((s.charge k).requested src).wake.enterInterrupt src).charge (m + 1 + 20) := by
    calc s.hostTicks (k + m + 1)
      _ = (s.hostTicks k).hostTicks (m + 1) := s.hostTicks_add k (m + 1)
      _ = ((s.charge k).withInputs [[.request src]]).hostTicks (m + 1) := by rw [State.hostTicks_of_empty_gaps k hp hinputs]
      _ = ((s.charge k).requested src).hostTicks (m + 1) := congrArg (State.hostTicks · m) (State.hostTick_of_request rfl)
      _ = _ := State.hostTicks_of_service (s := (s.charge k).requested src) rfl hime hs m
  rw [ht, State.wake_enterInterrupt_eq (State.interruptPending_of_highestSource hs)]
  refine ⟨rfl, rfl, rfl, rfl, .of_bus (((s.charge k).requested src).bus.ack src.mask) (fun _ => rfl) rfl, rfl, ?_, rfl⟩
  show s.clock + k + (m + 1 + 20) = s.clock + (k + m + 1) + 20
  omega

/-! ## EI -/

theorem StoredWord.of_effect {events : List Event} {changes : List Part} {s t u : State} {addr v : Word}
    (heff : Effect events changes s u) (h : StoredWord u t addr v) : StoredWord s t addr v := by
  rw [StoredWord, heff.onMemory_eq, heff.onMemory_eq] at h
  exact h

/-- `EI` sets IME at once (R269). -/
theorem exec_ei_effect (s : State) :
    ∃ t, exec .ei s = .next t ∧ t.cycles = s.ticksAt [0xFB] true 4 ∧ t.ime = true ∧ t.pc = s.pc ∧ Effect [] [.ime] s t :=
  ⟨_, rfl, rfl, rfl, rfl, (Effect.setIme s true).setCycles_right _⟩

/-- The core's step at an `EI`: one fetch, and IME on. -/
theorem cpuStep_ei {s : State} (hrun : s.runState = .running) (hbug : s.haltBug = false) (hop : s.answer s.pc = 0xFB) :
    ∃ t, cpuStep s = .next t ∧ t.cycles = s.ticksAt [0xFB] true 4 ∧ t.ime = true ∧ t.pc = s.pc + 1 ∧
      Effect [.read s.pc 0xFB] [.pc, .haltBug, .debug, .ime] s t := by
  obtain ⟨u, hu, hpc, hfetch⟩ := State.fetchInstr_of_one_byte (decodesTo_encode (i := .ei) rfl) hop
  obtain ⟨t, ht, hcycles, hime, htpc, hexec⟩ := exec_ei_effect u
  have haddr : s.operandAddr = s.pc + 1 := by rw [State.operandAddr, hbug]; rfl
  exact ⟨t, by rw [cpuStep_running hrun, hu, ht], hcycles.trans (State.ticksAt_congr hfetch.ticks _ _ _), hime,
    htpc.trans (hpc.trans haddr), hfetch.trans hexec⟩

theorem exists_highestSource {s : State} (h : s.interruptPending = true) :
    ∃ src, highestSource (s.interruptEnable &&& s.interruptFlag) = some src :=
  Option.ne_none_iff_exists'.mp (mt highestSource_eq_none.mp (bne_iff_ne.mp h))

/-- Settles O55: after the step IME is on with the source still pending, so the first dispatcher call of the round services. -/
theorem eiTakesEffectAtOnce : Obligations.EiTakesEffectAtOnce := by
  intro s hrun hbug hq hop c ticks hp hne
  have hbegin : s.beginRound = { s with trace := [] } := by rw [State.beginRound, State.envGap_of_quiet hq]
  obtain ⟨u, hu, (hcycles : u.cycles = ticks), hime, (hpc : u.pc = s.pc + 1), hei⟩ :=
    cpuStep_ei (s := { s with trace := [] }) hrun hbug hop
  obtain ⟨(hinputs : u.inputs = s.inputs), (hclock : u.clock = s.clock)⟩ := hei.frame .env (by decide)
  obtain ⟨src, hsrc⟩ := exists_highestSource hp
  have hs : highestSource (u.interruptEnable &&& u.interruptFlag) = some src := by
    rw [State.pending_congr (s := c) hei.bus, hsrc]
  obtain ⟨n, hn⟩ := Nat.exists_eq_succ_of_ne_zero fun h => hne (BitVec.eq_of_toNat_eq h)
  have hstep : step s = .next ((u.wake.enterInterrupt src).charge (ticks.toNat + 20)) := by
    rw [step_of_cpuStep (hbegin ▸ hu), hcycles, hn, State.hostTicks_of_service (hinputs.trans hq) hime hs]
  have hwake := hei.trans (.wake u)
  have hspWake : u.wake.sp = s.sp := hwake.frame .sp (by decide)
  have hpcWake : u.wake.pc = s.pc + 1 := Eq.trans ((Effect.wake u).frame .pc (by decide)) hpc
  have hstored := (u.wake.storedWord_enterInterrupt src).of_effect hwake
  have heff := hwake.trans (.enterInterrupt u.wake src)
  rw [hspWake, hpcWake] at hstored heff
  refine ⟨_, src, hstep, hsrc, rfl, rfl, ?_, hstored, heff.trace, ?_, heff.frame .flags (by decide),
    fun r => heff.frame (.reg r) (by simp)⟩
  · exact (u.wake.sp_enterInterrupt src).trans (congrArg (· - 2) hspWake)
  · have hclock' : (u.wake.enterInterrupt src).clock = s.clock := by
      rw [State.enterInterrupt_eq, State.wake_clock, hclock]
    show (u.wake.enterInterrupt src).clock + (ticks.toNat + 20) = s.clock + ticks.toNat + 20
    rw [hclock', Nat.add_assoc]

end Sys2Proof.Machine
end
